-- ==== Sys2Proof/Word.lean ====
section
/-! DEFINITION. The widths of the 32-bit Nios CPU (00_scope.md R3, R4, R11). -/

namespace Sys2Proof

/-- An 8-bit quantity (R4). -/
abbrev Byte := BitVec 8

/-- A half-word, 16 bits (R4): an instruction word, or a control register (10_state.md R36, R41, R42). -/
abbrev Half := BitVec 16

/-- A word, 32 bits (R4): a general-purpose register, the widest memory access. -/
abbrev Word := BitVec 32

/-- A byte address of the 33-bit address bus (20_memory.md R60), and the program counter (10_state.md R30). -/
abbrev Addr := BitVec 33

/-- The index of one of the 32 visible registers (30_encoding.md R93). -/
abbrev Reg := BitVec 5

/-- An exception number, 0 to 63, which is also a priority (60_exceptions.md R310). -/
abbrev ExcNum := BitVec 6

end Sys2Proof
end

