-- ==== Sys2Proof/Syntax.lean ====
section
/-! DEFINITION. The instructions: one constructor per row of spec/opcode_table.json, in the table's order
(30_encoding.md R112). Pseudo-instructions are words of these (R113). -/

namespace Sys2Proof

/-- A field `b` of AND, ANDN, OR and XOR is register B or IMM5, as PFXD says when the instruction runs
(30_encoding.md R117). The base pointer of LDP and STP is named by its register number, 16 + P (R93). -/
inductive Instr where
  | add (a b : Reg)
  | addi (a : Reg) (imm5 : BitVec 5)
  | sub (a b : Reg)
  | subi (a : Reg) (imm5 : BitVec 5)
  | cmp (a b : Reg)
  | cmpi (a : Reg) (imm5 : BitVec 5)
  | lsl (a b : Reg)
  | lsli (a : Reg) (imm5 : BitVec 5)
  | lsr (a b : Reg)
  | lsri (a : Reg) (imm5 : BitVec 5)
  | asr (a b : Reg)
  | asri (a : Reg) (imm5 : BitVec 5)
  | mov (a b : Reg)
  | movi (a : Reg) (imm5 : BitVec 5)
  | and (a : Reg) (b : BitVec 5)
  | andn (a : Reg) (b : BitVec 5)
  | or (a : Reg) (b : BitVec 5)
  | xor (a : Reg) (b : BitVec 5)
  | bgen (a : Reg) (imm5 : BitVec 5)
  | ext8d (a b : Reg)
  | skp0 (a : Reg) (imm5 : BitVec 5)
  | skp1 (a : Reg) (imm5 : BitVec 5)
  | ld (a b : Reg)
  | st (a b : Reg)
  | sts8s (imm10 : BitVec 10)
  | sts16s (imm9 : BitVec 9)
  | ext16d (a b : Reg)
  | movhi (a : Reg) (imm5 : BitVec 5)
  | usr0 (a b : Reg)
  | ext8s (a : Reg) (imm2 : BitVec 2)
  | ext16s (a : Reg) (imm1 : BitVec 1)
  | st8s (a : Reg) (imm2 : BitVec 2)
  | st16s (a : Reg) (imm1 : BitVec 1)
  | save (imm8 : BitVec 8)
  | trap (imm6 : ExcNum)
  | not (a : Reg)
  | neg (a : Reg)
  | abs (a : Reg)
  | sext8 (a : Reg)
  | sext16 (a : Reg)
  | rlc (a : Reg)
  | rrc (a : Reg)
  | swap (a : Reg)
  | usr1 (a : Reg)
  | usr2 (a : Reg)
  | usr3 (a : Reg)
  | usr4 (a : Reg)
  | restore
  | tret (a : Reg)
  | st8d (a : Reg)
  | st16d (a : Reg)
  | fill8 (a : Reg)
  | fill16 (a : Reg)
  | mstep (a : Reg)
  | mul (a : Reg)
  | skprz (a : Reg)
  | skps (imm4 : BitVec 4)
  | wrctl (a : Reg)
  | rdctl (a : Reg)
  | skprnz (a : Reg)
  | jmp (a : Reg)
  | call (a : Reg)
  | br (imm11 : BitVec 11)
  | bsr (imm11 : BitVec 11)
  | pfx (imm11 : BitVec 11)
  | stp (p : Reg) (imm5 : BitVec 5) (a : Reg)
  | ldp (p : Reg) (imm5 : BitVec 5) (a : Reg)
  | sts (imm8 : BitVec 8) (a : Reg)
  | lds (imm8 : BitVec 8) (a : Reg)
deriving DecidableEq, Repr

end Sys2Proof
end

