-- ==== Sys2Proof/WellFormed.lean ====
section
/-! DEFINITION. Which terms of `Instr` are instructions. Every field is a bit vector of the width its format
gives (30_encoding.md R92), so only the base pointer of LDP and STP can be out of range. -/

namespace Sys2Proof

/-- "The base-pointer must be one of the four registers: %L0, %L1, %L2, or %L3" (45_load_store.md R218, R219):
%r16 to %r19 (30_encoding.md R93). -/
def isBasePointer (p : Reg) : Bool := 16 ≤ p.toNat && p.toNat ≤ 19

/-- The instruction has an encoding. -/
def Instr.wellFormed : Instr → Bool
  | .stp p _ _ => isBasePointer p
  | .ldp p _ _ => isBasePointer p
  | .add _ _ | .addi _ _ | .sub _ _ | .subi _ _ | .cmp _ _ | .cmpi _ _ | .lsl _ _ | .lsli _ _
  | .lsr _ _ | .lsri _ _ | .asr _ _ | .asri _ _ | .mov _ _ | .movi _ _ | .and _ _ | .andn _ _
  | .or _ _ | .xor _ _ | .bgen _ _ | .ext8d _ _ | .skp0 _ _ | .skp1 _ _ | .ld _ _ | .st _ _
  | .sts8s _ | .sts16s _ | .ext16d _ _ | .movhi _ _ | .usr0 _ _ | .ext8s _ _ | .ext16s _ _
  | .st8s _ _ | .st16s _ _ | .save _ | .trap _ | .not _ | .neg _ | .abs _ | .sext8 _ | .sext16 _
  | .rlc _ | .rrc _ | .swap _ | .usr1 _ | .usr2 _ | .usr3 _ | .usr4 _ | .restore | .tret _
  | .st8d _ | .st16d _ | .fill8 _ | .fill16 _ | .mstep _ | .mul _ | .skprz _ | .skps _
  | .wrctl _ | .rdctl _ | .skprnz _ | .jmp _ | .call _ | .br _ | .bsr _ | .pfx _ | .sts _ _
  | .lds _ _ => true

end Sys2Proof
end

