-- ==== Sys2Proof/Decode.lean ====
section
/-! DEFINITION. Decoding and encoding: the formats of 30_encoding.md R92 and the opcode map of R112. -/

namespace Sys2Proof

/-- Why a word is no instruction. -/
inductive DecodeError where
  /-- Fewer than two bytes: every instruction is 16 bits (30_encoding.md R90). -/
  | truncated
  /-- The opcode bits match no row of the opcode map (30_encoding.md R114). -/
  | unassigned
  /-- The opcode bits match a row, and a bit that its format prints as 0 is set (30_encoding.md R95). -/
  | fixedZero
deriving DecidableEq, Repr

/-! ## Fields -/

/-- Bits hi to lo of an instruction word as a number (00_scope.md R11). -/
def field (w : Half) (hi lo : Nat) : Nat := w.toNat / 2 ^ lo % 2 ^ (hi - lo + 1)

/-- Field A, bits 4:0 (30_encoding.md R92). -/
def fieldA (w : Half) : Reg := w.extractLsb' 0 5

/-- Field B, or IMM5, bits 9:5 (30_encoding.md R92). -/
def fieldB (w : Half) : BitVec 5 := w.extractLsb' 5 5

/-- The base pointer x[16 + P], P bits 11:10 (30_encoding.md R93). -/
def fieldP (w : Half) : Reg := 0b100#3 ++ (w.extractLsb' 10 2 : BitVec 2)

/-! ## Decoding (30_encoding.md R94: by opcode prefix) -/

/-- op6 = 011101, a 9-bit opcode (formats Ri1u, Ri2u). -/
def decodeU (w : Half) : Except DecodeError Instr :=
  match field w 9 7 with
  | 0 => .ok (.ext8s (fieldA w) (w.extractLsb' 5 2))
  | 1 => if field w 5 5 = 0 then .ok (.ext16s (fieldA w) (w.extractLsb' 6 1)) else .error .fixedZero
  | 4 => .ok (.st8s (fieldA w) (w.extractLsb' 5 2))
  | 5 => if field w 5 5 = 0 then .ok (.st16s (fieldA w) (w.extractLsb' 6 1)) else .error .fixedZero
  | _ => .error .unassigned

/-- op6 = 011110, an 8-bit opcode (formats i8v, i6v). -/
def decodeV (w : Half) : Except DecodeError Instr :=
  match field w 9 8 with
  | 0 => .ok (.save (w.extractLsb' 0 8))
  | 1 => if field w 7 6 = 0 then .ok (.trap (w.extractLsb' 0 6)) else .error .fixedZero
  | _ => .error .unassigned

/-- op6 = 011111, an 11-bit opcode (formats Rw, i4w, w). -/
def decodeW (w : Half) : Except DecodeError Instr :=
  match field w 9 5 with
  | 0 => .ok (.not (fieldA w))
  | 1 => .ok (.neg (fieldA w))
  | 2 => .ok (.abs (fieldA w))
  | 3 => .ok (.sext8 (fieldA w))
  | 4 => .ok (.sext16 (fieldA w))
  | 5 => .ok (.rlc (fieldA w))
  | 6 => .ok (.rrc (fieldA w))
  | 8 => .ok (.swap (fieldA w))
  | 9 => .ok (.usr1 (fieldA w))
  | 10 => .ok (.usr2 (fieldA w))
  | 11 => .ok (.usr3 (fieldA w))
  | 12 => .ok (.usr4 (fieldA w))
  | 13 => if field w 4 0 = 0 then .ok .restore else .error .fixedZero
  | 14 => .ok (.tret (fieldA w))
  | 16 => .ok (.st8d (fieldA w))
  | 17 => .ok (.st16d (fieldA w))
  | 18 => .ok (.fill8 (fieldA w))
  | 19 => .ok (.fill16 (fieldA w))
  | 20 => .ok (.mstep (fieldA w))
  | 21 => .ok (.mul (fieldA w))
  | 22 => .ok (.skprz (fieldA w))
  | 23 => if field w 4 4 = 0 then .ok (.skps (w.extractLsb' 0 4)) else .error .fixedZero
  | 24 => .ok (.wrctl (fieldA w))
  | 25 => .ok (.rdctl (fieldA w))
  | 26 => .ok (.skprnz (fieldA w))
  | 30 => .ok (.jmp (fieldA w))
  | 31 => .ok (.call (fieldA w))
  | _ => .error .unassigned

/-- Bit 15 = 0: a 6-bit opcode, or one of the three groups above (formats RR, Ri5, i10, i9). -/
def decodeOp6 (w : Half) : Except DecodeError Instr :=
  match field w 15 10 with
  | 0 => .ok (.add (fieldA w) (fieldB w))
  | 1 => .ok (.addi (fieldA w) (fieldB w))
  | 2 => .ok (.sub (fieldA w) (fieldB w))
  | 3 => .ok (.subi (fieldA w) (fieldB w))
  | 4 => .ok (.cmp (fieldA w) (fieldB w))
  | 5 => .ok (.cmpi (fieldA w) (fieldB w))
  | 6 => .ok (.lsl (fieldA w) (fieldB w))
  | 7 => .ok (.lsli (fieldA w) (fieldB w))
  | 8 => .ok (.lsr (fieldA w) (fieldB w))
  | 9 => .ok (.lsri (fieldA w) (fieldB w))
  | 10 => .ok (.asr (fieldA w) (fieldB w))
  | 11 => .ok (.asri (fieldA w) (fieldB w))
  | 12 => .ok (.mov (fieldA w) (fieldB w))
  | 13 => .ok (.movi (fieldA w) (fieldB w))
  | 14 => .ok (.and (fieldA w) (fieldB w))
  | 15 => .ok (.andn (fieldA w) (fieldB w))
  | 16 => .ok (.or (fieldA w) (fieldB w))
  | 17 => .ok (.xor (fieldA w) (fieldB w))
  | 18 => .ok (.bgen (fieldA w) (fieldB w))
  | 19 => .ok (.ext8d (fieldA w) (fieldB w))
  | 20 => .ok (.skp0 (fieldA w) (fieldB w))
  | 21 => .ok (.skp1 (fieldA w) (fieldB w))
  | 22 => .ok (.ld (fieldA w) (fieldB w))
  | 23 => .ok (.st (fieldA w) (fieldB w))
  | 24 => .ok (.sts8s (w.extractLsb' 0 10))
  | 25 => if field w 0 0 = 0 then .ok (.sts16s (w.extractLsb' 1 9)) else .error .fixedZero
  | 26 => .ok (.ext16d (fieldA w) (fieldB w))
  | 27 => .ok (.movhi (fieldA w) (fieldB w))
  | 28 => .ok (.usr0 (fieldA w) (fieldB w))
  | 29 => decodeU w
  | 30 => decodeV w
  | 31 => decodeW w
  | _ => .error .unassigned

/-- The instruction of a word (30_encoding.md R112), or the reason why it is none (R114, R115). -/
def decodeWord (w : Half) : Except DecodeError Instr :=
  match field w 15 13 with
  | 7 => .ok (.lds (w.extractLsb' 5 8) (fieldA w))
  | 6 => .ok (.sts (w.extractLsb' 5 8) (fieldA w))
  | 5 =>
    match field w 12 12 with
    | 0 => .ok (.stp (fieldP w) (fieldB w) (fieldA w))
    | _ => .ok (.ldp (fieldP w) (fieldB w) (fieldA w))
  | 4 =>
    match field w 12 11 with
    | 0 => .ok (.br (w.extractLsb' 0 11))
    | 1 => .ok (.bsr (w.extractLsb' 0 11))
    | 3 => .ok (.pfx (w.extractLsb' 0 11))
    | _ => .error .unassigned
  | _ => decodeOp6 w

/-- The instruction at the head of some bytes, and the bytes after it: the byte at the lower address is bits
7:0 of the word (20_memory.md R63, R64). -/
def decodeBytes : List Byte → Except DecodeError (Instr × List Byte)
  | lo :: hi :: rest =>
    match decodeWord (hi ++ lo) with
    | .ok i => .ok (i, rest)
    | .error e => .error e
  | _ => .error .truncated

/-! ## Encoding -/

/-- RR: op6, B, A. -/
def formatRR (op : BitVec 6) (b a : BitVec 5) : Half := op ++ b ++ a
/-- Ri5: op6, IMM5, A. -/
def formatRi5 (op : BitVec 6) (imm5 a : BitVec 5) : Half := op ++ imm5 ++ a
/-- RPi5: op4, P, IMM5, A, with P the base pointer's number less 16 (45_load_store.md R218). -/
def formatRPi5 (op : BitVec 4) (p imm5 a : BitVec 5) : Half := op ++ (p.extractLsb' 0 2 : BitVec 2) ++ imm5 ++ a
/-- Ri8: op3, IMM8, A. -/
def formatRi8 (op : BitVec 3) (imm8 : BitVec 8) (a : BitVec 5) : Half := op ++ imm8 ++ a
/-- i9: op6, IMM9, 0. -/
def formatI9 (op : BitVec 6) (imm9 : BitVec 9) : Half := op ++ imm9 ++ 0b0#1
/-- i10: op6, IMM10. -/
def formatI10 (op : BitVec 6) (imm10 : BitVec 10) : Half := op ++ imm10
/-- i11: op5, IMM11. -/
def formatI11 (op : BitVec 5) (imm11 : BitVec 11) : Half := op ++ imm11
/-- Ri1u: op6 and op3u, IMM1, 0, A. -/
def formatRi1u (op : BitVec 9) (imm1 : BitVec 1) (a : BitVec 5) : Half := op ++ imm1 ++ 0b0#1 ++ a
/-- Ri2u: op6 and op3u, IMM2, A. -/
def formatRi2u (op : BitVec 9) (imm2 : BitVec 2) (a : BitVec 5) : Half := op ++ imm2 ++ a
/-- i8v: op6 and op2v, IMM8. -/
def formatI8v (op : BitVec 8) (imm8 : BitVec 8) : Half := op ++ imm8
/-- i6v: op6 and op2v, 00, IMM6. -/
def formatI6v (op : BitVec 8) (imm6 : BitVec 6) : Half := op ++ 0b00#2 ++ imm6
/-- Rw: 011111, op5w, A. -/
def formatRw (op5w a : BitVec 5) : Half := 0b011111#6 ++ op5w ++ a
/-- i4w: 011111, op5w, 0, IMM4. -/
def formatI4w (op5w : BitVec 5) (imm4 : BitVec 4) : Half := 0b011111#6 ++ op5w ++ 0b0#1 ++ imm4
/-- w: 011111, op5w, 00000. -/
def formatW (op5w : BitVec 5) : Half := 0b011111#6 ++ op5w ++ 0b00000#5

/-- The word of a well-formed instruction (30_encoding.md R92, R112). -/
def encode : Instr → Half
  | .add a b => formatRR 0b000000#6 b a
  | .addi a imm5 => formatRi5 0b000001#6 imm5 a
  | .sub a b => formatRR 0b000010#6 b a
  | .subi a imm5 => formatRi5 0b000011#6 imm5 a
  | .cmp a b => formatRR 0b000100#6 b a
  | .cmpi a imm5 => formatRi5 0b000101#6 imm5 a
  | .lsl a b => formatRR 0b000110#6 b a
  | .lsli a imm5 => formatRi5 0b000111#6 imm5 a
  | .lsr a b => formatRR 0b001000#6 b a
  | .lsri a imm5 => formatRi5 0b001001#6 imm5 a
  | .asr a b => formatRR 0b001010#6 b a
  | .asri a imm5 => formatRi5 0b001011#6 imm5 a
  | .mov a b => formatRR 0b001100#6 b a
  | .movi a imm5 => formatRi5 0b001101#6 imm5 a
  | .and a b => formatRR 0b001110#6 b a
  | .andn a b => formatRR 0b001111#6 b a
  | .or a b => formatRR 0b010000#6 b a
  | .xor a b => formatRR 0b010001#6 b a
  | .bgen a imm5 => formatRi5 0b010010#6 imm5 a
  | .ext8d a b => formatRR 0b010011#6 b a
  | .skp0 a imm5 => formatRi5 0b010100#6 imm5 a
  | .skp1 a imm5 => formatRi5 0b010101#6 imm5 a
  | .ld a b => formatRR 0b010110#6 b a
  | .st a b => formatRR 0b010111#6 b a
  | .sts8s imm10 => formatI10 0b011000#6 imm10
  | .sts16s imm9 => formatI9 0b011001#6 imm9
  | .ext16d a b => formatRR 0b011010#6 b a
  | .movhi a imm5 => formatRi5 0b011011#6 imm5 a
  | .usr0 a b => formatRR 0b011100#6 b a
  | .ext8s a imm2 => formatRi2u 0b011101000#9 imm2 a
  | .ext16s a imm1 => formatRi1u 0b011101001#9 imm1 a
  | .st8s a imm2 => formatRi2u 0b011101100#9 imm2 a
  | .st16s a imm1 => formatRi1u 0b011101101#9 imm1 a
  | .save imm8 => formatI8v 0b01111000#8 imm8
  | .trap imm6 => formatI6v 0b01111001#8 imm6
  | .not a => formatRw 0b00000#5 a
  | .neg a => formatRw 0b00001#5 a
  | .abs a => formatRw 0b00010#5 a
  | .sext8 a => formatRw 0b00011#5 a
  | .sext16 a => formatRw 0b00100#5 a
  | .rlc a => formatRw 0b00101#5 a
  | .rrc a => formatRw 0b00110#5 a
  | .swap a => formatRw 0b01000#5 a
  | .usr1 a => formatRw 0b01001#5 a
  | .usr2 a => formatRw 0b01010#5 a
  | .usr3 a => formatRw 0b01011#5 a
  | .usr4 a => formatRw 0b01100#5 a
  | .restore => formatW 0b01101#5
  | .tret a => formatRw 0b01110#5 a
  | .st8d a => formatRw 0b10000#5 a
  | .st16d a => formatRw 0b10001#5 a
  | .fill8 a => formatRw 0b10010#5 a
  | .fill16 a => formatRw 0b10011#5 a
  | .mstep a => formatRw 0b10100#5 a
  | .mul a => formatRw 0b10101#5 a
  | .skprz a => formatRw 0b10110#5 a
  | .skps imm4 => formatI4w 0b10111#5 imm4
  | .wrctl a => formatRw 0b11000#5 a
  | .rdctl a => formatRw 0b11001#5 a
  | .skprnz a => formatRw 0b11010#5 a
  | .jmp a => formatRw 0b11110#5 a
  | .call a => formatRw 0b11111#5 a
  | .br imm11 => formatI11 0b10000#5 imm11
  | .bsr imm11 => formatI11 0b10001#5 imm11
  | .pfx imm11 => formatI11 0b10011#5 imm11
  | .stp p imm5 a => formatRPi5 0b1010#4 p imm5 a
  | .ldp p imm5 a => formatRPi5 0b1011#4 p imm5 a
  | .sts imm8 a => formatRi8 0b110#3 imm8 a
  | .lds imm8 a => formatRi8 0b111#3 imm8 a

/-! ## The opcode map as the spec prints it -/

/-- One row of 30_encoding.md R112: "a word w is the instruction of a row when `w & mask = match`". -/
structure OpcodeRow where
  mnemonic : String
  value : Half
  mask : Half
deriving DecidableEq, Repr

/-- The row of an instruction. -/
def Instr.row : Instr → OpcodeRow
  | .add _ _ => ⟨"ADD", 0x0000#16, 0xFC00#16⟩
  | .addi _ _ => ⟨"ADDI", 0x0400#16, 0xFC00#16⟩
  | .sub _ _ => ⟨"SUB", 0x0800#16, 0xFC00#16⟩
  | .subi _ _ => ⟨"SUBI", 0x0C00#16, 0xFC00#16⟩
  | .cmp _ _ => ⟨"CMP", 0x1000#16, 0xFC00#16⟩
  | .cmpi _ _ => ⟨"CMPI", 0x1400#16, 0xFC00#16⟩
  | .lsl _ _ => ⟨"LSL", 0x1800#16, 0xFC00#16⟩
  | .lsli _ _ => ⟨"LSLI", 0x1C00#16, 0xFC00#16⟩
  | .lsr _ _ => ⟨"LSR", 0x2000#16, 0xFC00#16⟩
  | .lsri _ _ => ⟨"LSRI", 0x2400#16, 0xFC00#16⟩
  | .asr _ _ => ⟨"ASR", 0x2800#16, 0xFC00#16⟩
  | .asri _ _ => ⟨"ASRI", 0x2C00#16, 0xFC00#16⟩
  | .mov _ _ => ⟨"MOV", 0x3000#16, 0xFC00#16⟩
  | .movi _ _ => ⟨"MOVI", 0x3400#16, 0xFC00#16⟩
  | .and _ _ => ⟨"AND", 0x3800#16, 0xFC00#16⟩
  | .andn _ _ => ⟨"ANDN", 0x3C00#16, 0xFC00#16⟩
  | .or _ _ => ⟨"OR", 0x4000#16, 0xFC00#16⟩
  | .xor _ _ => ⟨"XOR", 0x4400#16, 0xFC00#16⟩
  | .bgen _ _ => ⟨"BGEN", 0x4800#16, 0xFC00#16⟩
  | .ext8d _ _ => ⟨"EXT8d", 0x4C00#16, 0xFC00#16⟩
  | .skp0 _ _ => ⟨"SKP0", 0x5000#16, 0xFC00#16⟩
  | .skp1 _ _ => ⟨"SKP1", 0x5400#16, 0xFC00#16⟩
  | .ld _ _ => ⟨"LD", 0x5800#16, 0xFC00#16⟩
  | .st _ _ => ⟨"ST", 0x5C00#16, 0xFC00#16⟩
  | .sts8s _ => ⟨"STS8s", 0x6000#16, 0xFC00#16⟩
  | .sts16s _ => ⟨"STS16s", 0x6400#16, 0xFC01#16⟩
  | .ext16d _ _ => ⟨"EXT16d", 0x6800#16, 0xFC00#16⟩
  | .movhi _ _ => ⟨"MOVHI", 0x6C00#16, 0xFC00#16⟩
  | .usr0 _ _ => ⟨"USR0", 0x7000#16, 0xFC00#16⟩
  | .ext8s _ _ => ⟨"EXT8s", 0x7400#16, 0xFF80#16⟩
  | .ext16s _ _ => ⟨"EXT16s", 0x7480#16, 0xFFA0#16⟩
  | .st8s _ _ => ⟨"ST8s", 0x7600#16, 0xFF80#16⟩
  | .st16s _ _ => ⟨"ST16s", 0x7680#16, 0xFFA0#16⟩
  | .save _ => ⟨"SAVE", 0x7800#16, 0xFF00#16⟩
  | .trap _ => ⟨"TRAP", 0x7900#16, 0xFFC0#16⟩
  | .not _ => ⟨"NOT", 0x7C00#16, 0xFFE0#16⟩
  | .neg _ => ⟨"NEG", 0x7C20#16, 0xFFE0#16⟩
  | .abs _ => ⟨"ABS", 0x7C40#16, 0xFFE0#16⟩
  | .sext8 _ => ⟨"SEXT8", 0x7C60#16, 0xFFE0#16⟩
  | .sext16 _ => ⟨"SEXT16", 0x7C80#16, 0xFFE0#16⟩
  | .rlc _ => ⟨"RLC", 0x7CA0#16, 0xFFE0#16⟩
  | .rrc _ => ⟨"RRC", 0x7CC0#16, 0xFFE0#16⟩
  | .swap _ => ⟨"SWAP", 0x7D00#16, 0xFFE0#16⟩
  | .usr1 _ => ⟨"USR1", 0x7D20#16, 0xFFE0#16⟩
  | .usr2 _ => ⟨"USR2", 0x7D40#16, 0xFFE0#16⟩
  | .usr3 _ => ⟨"USR3", 0x7D60#16, 0xFFE0#16⟩
  | .usr4 _ => ⟨"USR4", 0x7D80#16, 0xFFE0#16⟩
  | .restore => ⟨"RESTORE", 0x7DA0#16, 0xFFFF#16⟩
  | .tret _ => ⟨"TRET", 0x7DC0#16, 0xFFE0#16⟩
  | .st8d _ => ⟨"ST8d", 0x7E00#16, 0xFFE0#16⟩
  | .st16d _ => ⟨"ST16d", 0x7E20#16, 0xFFE0#16⟩
  | .fill8 _ => ⟨"FILL8", 0x7E40#16, 0xFFE0#16⟩
  | .fill16 _ => ⟨"FILL16", 0x7E60#16, 0xFFE0#16⟩
  | .mstep _ => ⟨"MSTEP", 0x7E80#16, 0xFFE0#16⟩
  | .mul _ => ⟨"MUL", 0x7EA0#16, 0xFFE0#16⟩
  | .skprz _ => ⟨"SKPRz", 0x7EC0#16, 0xFFE0#16⟩
  | .skps _ => ⟨"SKPS", 0x7EE0#16, 0xFFF0#16⟩
  | .wrctl _ => ⟨"WRCTL", 0x7F00#16, 0xFFE0#16⟩
  | .rdctl _ => ⟨"RDCTL", 0x7F20#16, 0xFFE0#16⟩
  | .skprnz _ => ⟨"SKPRnz", 0x7F40#16, 0xFFE0#16⟩
  | .jmp _ => ⟨"JMP", 0x7FC0#16, 0xFFE0#16⟩
  | .call _ => ⟨"CALL", 0x7FE0#16, 0xFFE0#16⟩
  | .br _ => ⟨"BR", 0x8000#16, 0xF800#16⟩
  | .bsr _ => ⟨"BSR", 0x8800#16, 0xF800#16⟩
  | .pfx _ => ⟨"PFX", 0x9800#16, 0xF800#16⟩
  | .stp _ _ _ => ⟨"STP", 0xA000#16, 0xF000#16⟩
  | .ldp _ _ _ => ⟨"LDP", 0xB000#16, 0xF000#16⟩
  | .sts _ _ => ⟨"STS", 0xC000#16, 0xE000#16⟩
  | .lds _ _ => ⟨"LDS", 0xE000#16, 0xE000#16⟩

/-- An instruction of opcode_table.json's bits: the bits of `w` below `nbits`, the first word the low 16,
laid out in memory order and given to the decoder. -/
def decodeTableWord (nbits w : Nat) : Option Instr :=
  let v := w % 2 ^ nbits
  match decodeBytes [BitVec.ofNat 8 v, BitVec.ofNat 8 (v / 256)] with
  | .ok (i, _) => some i
  | .error _ => none

end Sys2Proof
end

