-- ==== Sys2Proof/Config.lean ====
section
/-! DEFINITION. What a particular Nios CPU fixes (00_scope.md R9, R10), and the free values. -/

namespace Sys2Proof

/-- REGFILE_SIZE: "a total of either 128, 256, or 512 registers" (00_scope.md R9, 10_state.md R21). -/
inductive RegfileSize where
  | r128 | r256 | r512
deriving DecidableEq, Repr

/-- The number of physical registers. -/
def RegfileSize.size : RegfileSize → Nat
  | .r128 => 128
  | .r256 => 256
  | .r512 => 512

/-- HI_RESET = REGFILE_SIZE / 16 - 2 (00_scope.md R10). -/
def RegfileSize.hiReset (r : RegfileSize) : BitVec 5 := BitVec.ofNat 5 (r.size / 16 - 2)

/-- What stands at a range of addresses (00_scope.md R9 `MEM`, 20_memory.md R60, R72). A range that no
region names holds nothing. -/
inductive RegionKind where
  /-- Read and written. -/
  | ram
  /-- Read only; a store to it is unspecified (20_memory.md R69). -/
  | rom
  /-- Registers of `width` bits, each presented as one word padded by zeros (20_memory.md R72). -/
  | peripheral (width : Nat)
deriving DecidableEq, Repr

/-- One range of the memory map (20_memory.md R70, R71). -/
structure Region where
  base : Nat
  size : Nat
  kind : RegionKind
deriving DecidableEq, Repr

/-- The parameters of a configuration (00_scope.md R9). The initial image, the other half of `MEM`, is an
argument of `Machine.State.resetWith`. -/
structure Config where
  /-- REGFILE_SIZE. -/
  regfile : RegfileSize
  /-- VECBASE, base of the exception vector table (60_exceptions.md R311). -/
  vecBase : Addr
  /-- WVALID_WRITABLE (10_state.md R42). -/
  wvalidWritable : Bool
  /-- RESET_PC (70_reset_and_hazards.md R362). -/
  resetPc : Addr
  /-- HAS_MUL (40_arithmetic.md R139). -/
  hasMul : Bool
  /-- HAS_MSTEP (40_arithmetic.md R138). -/
  hasMstep : Bool
  /-- The kinds of `MEM` (20_memory.md R60). -/
  map : List Region
deriving DecidableEq, Repr

/-- Two regions share no address. -/
abbrev Region.apart (r q : Region) : Prop := r.base + r.size ≤ q.base ∨ q.base + q.size ≤ r.base

/-- A region is made of whole aligned words inside the 33-bit space (20_memory.md R60, R71, R72). -/
abbrev Region.legal (r : Region) : Prop := r.base % 4 = 0 ∧ r.size % 4 = 0 ∧ r.base + r.size ≤ 2 ^ 33

/-- The legal values of the parameters (00_scope.md R9): VECBASE is word-aligned, RESET_PC is even, the
regions are legal and do not overlap. -/
abbrev Config.legal (c : Config) : Prop :=
  c.vecBase.toNat % 4 = 0 ∧ c.resetPc.toNat % 2 = 0 ∧ (∀ r ∈ c.map, r.legal) ∧ c.map.Pairwise Region.apart

/-- The configuration of `Machine.State.reset`. REGFILE_SIZE, HAS_MUL and HAS_MSTEP are the spec's defaults
(R9); the others are OPEN in the spec and are a DESIGN CHOICE, unsafe (log 19): those of the test vectors of
95_test_vectors.md, with RAM over the whole space. -/
def Config.default : Config :=
  { regfile := .r256
    vecBase := 0
    wvalidWritable := true
    resetPc := 0x100
    hasMul := true
    hasMstep := true
    map := [{ base := 0, size := 2 ^ 33, kind := .ram }] }

/-- A word the manual leaves open: "produces an undefined result" (10_state.md R43, R44; U5), or the
contents of a peripheral register (20_memory.md R72; U14). It has no body on purpose: no proof can know it.
`Machine.State.free` numbers the uses, so that each is a fresh one (log 24). Safe. -/
opaque Config.freeWord : Nat → Word

end Sys2Proof
end

