-- ==== Sys2Proof/Machine/Fields.lean ====
section
/-! DEFINITION. The fields of STATUS, ISTATUS and WVALID (10_state.md R36, R41, R42). -/

namespace Sys2Proof.Machine

/-- The condition codes N, V, Z, C (10_state.md R40). -/
structure Flags where
  n : Bool
  v : Bool
  z : Bool
  c : Bool
deriving DecidableEq, Repr

/-- N, V, Z, C as STATUS[3:0] (10_state.md R36). -/
def Flags.toBits (f : Flags) : BitVec 4 :=
  BitVec.ofBool f.n ++ BitVec.ofBool f.v ++ BitVec.ofBool f.z ++ BitVec.ofBool f.c

/-- STATUS from its fields: IE 15, IPRI 14:9, CWP 8:4, N V Z C 3:0 (10_state.md R36). -/
def mkStatus (ie : Bool) (ipri : ExcNum) (cwp : BitVec 5) (nvzc : BitVec 4) : Half :=
  BitVec.ofBool ie ++ ipri ++ cwp ++ nvzc

/-- IE, bit 15 (10_state.md R37). -/
def statusIE (v : Half) : Bool := v.getLsbD 15

/-- IPRI, bits 14:9 (10_state.md R38). -/
def statusIPRI (v : Half) : ExcNum := v.extractLsb' 9 6

/-- CWP, bits 8:4 (10_state.md R39). -/
def statusCWP (v : Half) : BitVec 5 := v.extractLsb' 4 5

/-- N V Z C, bits 3:0 (10_state.md R40). -/
def statusNVZC (v : Half) : BitVec 4 := v.extractLsb' 0 4

/-- The condition codes of a STATUS or ISTATUS value (10_state.md R40). -/
def statusFlags (v : Half) : Flags :=
  { n := v.getLsbD 3, v := v.getLsbD 2, z := v.getLsbD 1, c := v.getLsbD 0 }

/-- WVALID from its fields: HI_LIMIT 9:5, LO_LIMIT 4:0, bits 15:10 zero (10_state.md R42). -/
def mkWvalid (hi lo : BitVec 5) : Half := 0b000000#6 ++ hi ++ lo

/-- HI_LIMIT, bits 9:5 (10_state.md R42). -/
def wvalidHi (v : Half) : BitVec 5 := v.extractLsb' 5 5

/-- LO_LIMIT, bits 4:0 (10_state.md R42). -/
def wvalidLo (v : Half) : BitVec 5 := v.extractLsb' 0 5

end Sys2Proof.Machine
end

