-- ==== Sys2Proof/Machine/State.lean ====
section
/-! DEFINITION. The state of the machine (10_state.md R20), its reset, and the reasons a step stops. -/

namespace Sys2Proof.Machine

/-- Why the machine stops with a fault: never. The manual defines no access fault and no other fault mechanism
(20_memory.md R69), and 93_implementation_defined.md uses no treatment but refuse, any value and parameter; so there
is no constructor. Safe. -/
inductive Fault where
deriving DecidableEq, Repr

/-- Why the machine has no next state: the behaviours of 93_implementation_defined.md with treatment
`refuse`. Every one is safe: the hardware may go on, and no claim can be proved about what it does. -/
inductive Refusal where
  /-- Raised by `exec` for an instruction that has no meaning in this model. Safe. -/
  | notModelled (mnemonic : String)
  /-- Raised by `step`: the fetched word is no instruction (30_encoding.md R115; U1). Safe. -/
  | unassignedWord
  /-- Raised by PFX executed directly after PFX (70_reset_and_hazards.md R386; U2). Safe. -/
  | pfxAfterPfx
  /-- Raised by the twelve instructions that may not stand in a delay slot (70 R381; U3). Safe. -/
  | forbiddenInSlot
  /-- Raised by SKPS with condition 14 or 15 (46_control_flow.md R268; U4). Safe. -/
  | undefinedCondition
  /-- Raised by RDCTL and WRCTL with K in 3..7 or 10..2047 (10_state.md R45; U6). Safe. -/
  | reservedControlRegister
  /-- Raised by anything but NOP after a WRCTL to STATUS (70 R384; U8). Safe. -/
  | nopRequired
  /-- Raised by SAVE, TRAP and exception entry when CWP = 0 (60_exceptions.md R330; U10). Safe. -/
  | cwpBelowZero
  /-- Raised by RESTORE when CWP = 31 (47_system.md R281; U11). Safe. -/
  | cwpAboveMax
  /-- Raised by an access to a visible register outside the register file (10_state.md R24; U12). Safe. -/
  | outsideRegisterFile
  /-- Raised by USR0 to USR4, "Reserved for future use" (47_system.md R300 to R304; U13). Safe. -/
  | reservedOpcode
  /-- Raised by MUL and MSTEP on a CPU configured without them, whose word is then unassigned
  (40_arithmetic.md R138, R139; U1). Safe. -/
  | notConfigured
  /-- Raised by a fetch, a skip's look-ahead, a load, a store or a vector read at an address where `MEM` has nothing
  (20_memory.md R69; U7; log 27). Safe. -/
  | absentAddress
  /-- Raised by a store to a ROM range (20_memory.md R69; U7; log 27). Safe. -/
  | romStore
deriving DecidableEq, Repr

/-- The contents of memory (20_memory.md R60): the bytes that differ from what an unlisted address reads as,
at rising addresses (`Memory.wf` of Machine/Ops.lean). -/
abbrev Memory := List Host.Cell

/-- The complete state (10_state.md R20), with the configuration (00_scope.md R9) and the input stream
(10_state.md R47) as data. -/
structure State where
  /-- The parameters of this CPU; no step changes them. -/
  cfg : Config
  /-- P[0 .. REGFILE_SIZE-1] (R21). -/
  regs : List Word
  /-- PC (R29). -/
  pc : Addr
  /-- K (R27). -/
  k : BitVec 11
  /-- PFXD: the previous executed instruction was PFX (R32). -/
  pfxd : Bool
  /-- DS: the target of a delayed transfer whose slot has not executed (R33). -/
  ds : Option Addr
  /-- WSTAT: the previous executed instruction was a WRCTL to STATUS (R34). -/
  wstat : Bool
  /-- STATUS, %ctl0 (R36). -/
  status : Half
  /-- ISTATUS, %ctl1 (R41). -/
  istatus : Half
  /-- WVALID, %ctl2 (R42). -/
  wvalid : Half
  /-- The inputs of the coming steps: `some n` is irq = 1 with irq_number n, `none` is irq = 0; past the end
  irq = 0 (R47; log 18). -/
  irqs : List (Option ExcNum)
  /-- The model's own: the number of the next free value (log 24). -/
  free : Nat
  /-- Memory (20_memory.md R60). -/
  mem : Memory
deriving DecidableEq, Repr

/-- The state right after reset of a CPU with configuration `c` whose memory holds `image`
(70_reset_and_hazards.md R360 to R368). The flags and the registers are "any value" in the spec (R364, R366):
0 here, a DESIGN CHOICE, unsafe (log 20). -/
def State.resetWith (c : Config) (image : Memory) : State :=
  { cfg := c
    regs := List.replicate c.regfile.size 0
    pc := c.resetPc
    k := 0
    pfxd := false
    ds := none
    wstat := false
    status := mkStatus false 63 c.regfile.hiReset 0
    istatus := 0
    wvalid := mkWvalid c.regfile.hiReset 1
    irqs := []
    free := 0
    mem := image }

/-- The machine right after reset: the default configuration, nothing loaded (log 19, 22, 23). -/
def State.reset : State := State.resetWith Config.default []

end Sys2Proof.Machine
end

