-- ==== Sys2Proof/Machine/Ops.lean ====
section
/-! DEFINITION. The named operations over memory and registers, the end of an instruction
(10_state.md R46), taking an exception and returning from one (60_exceptions.md R320, 47_system.md R284). -/

namespace Sys2Proof.Machine

/-! ## Memory (20_memory.md R60 to R72) -/

/-- What an address that no cell lists reads as. RAM after reset is "any value" (70 R367, U9): 0 is a DESIGN
CHOICE, unsafe (log 22). -/
def Memory.unlisted : Byte := 0

/-- The byte M[a] (20_memory.md R61). -/
def Memory.get : Memory → Nat → Byte
  | [], _ => Memory.unlisted
  | c :: m, a => if c.1 = a then c.2 else Memory.get m a

/-- M[a] <- v, keeping the canonical form (20_memory.md R62). -/
def Memory.put : Memory → Nat → Byte → Memory
  | [], a, v => if v = Memory.unlisted then [] else [(a, v)]
  | c :: m, a, v =>
    if a < c.1 then (if v = Memory.unlisted then c :: m else (a, v) :: c :: m)
    else if a = c.1 then (if v = Memory.unlisted then m else (a, v) :: m)
    else c :: Memory.put m a v

/-- The canonical form: addresses strictly rising inside the 33-bit space, and no cell equal to what an
unlisted address reads as. -/
abbrev Memory.wf (m : Memory) : Prop :=
  m.Pairwise (fun c d => c.1 < d.1) ∧ ∀ c ∈ m, c.1 < 2 ^ 33 ∧ c.2 ≠ Memory.unlisted

/-- MemRead(a, 2), little-endian (20_memory.md R61). -/
def Memory.half (m : Memory) (a : Nat) : Half := m.get (a + 1) ++ m.get a

/-- MemRead(a, 4), little-endian (20_memory.md R61). -/
def Memory.word (m : Memory) (a : Nat) : Word := m.get (a + 3) ++ m.get (a + 2) ++ m.get (a + 1) ++ m.get a

/-- MemWrite(a, 2, v) (20_memory.md R62). -/
def Memory.putHalf (m : Memory) (a : Nat) (v : Half) : Memory :=
  (m.put a (v.extractLsb' 0 8)).put (a + 1) (v.extractLsb' 8 8)

/-- MemWrite(a, 4, v) (20_memory.md R62). -/
def Memory.putWord (m : Memory) (a : Nat) (v : Word) : Memory :=
  (((m.put a (v.extractLsb' 0 8)).put (a + 1) (v.extractLsb' 8 8)).put (a + 2) (v.extractLsb' 16 8)).put (a + 3)
    (v.extractLsb' 24 8)

/-- The n bytes from address a lie in the region. -/
def regionHolds (r : Region) (a n : Nat) : Bool := r.base ≤ a && a + n ≤ r.base + r.size

/-- What stands at the n bytes from address a; nothing where no region holds them (20_memory.md R60, R69). -/
def kindAt (c : Config) (a : Addr) (n : Nat) : Option RegionKind :=
  (c.map.find? (fun r => regionHolds r a.toNat n)).map Region.kind

/-- What a peripheral presents as one of its words: a register of `width` bits padded by zeros (20_memory.md R72).
What the register holds is free (log 25). -/
def peripheralWord (s : State) (width : Nat) : Word := ((Config.freeWord s.free).setWidth width).setWidth 32

/-- The word that a read of 4 bytes at a gives, where anything is there (20_memory.md R61, R72). -/
def State.wordAt (s : State) (a : Addr) : Word :=
  match kindAt s.cfg a 4 with
  | some (.peripheral width) => peripheralWord s width
  | _ => s.mem.word a.toNat

/-- The half-word that a read of 2 bytes at a gives, where anything is there: of a peripheral, its lane of the word
presented (20_memory.md R61, R64, R72; log 26). -/
def State.halfAt (s : State) (a : Addr) : Half :=
  match kindAt s.cfg a 2 with
  | some (.peripheral width) => (peripheralWord s width).extractLsb' (8 * (a.toNat % 4)) 16
  | _ => s.mem.half a.toNat

/-- The number of the next free value after a read of n bytes at a: a peripheral's register has used one up. -/
def State.freeAfter (s : State) (a : Addr) (n : Nat) : Nat :=
  match kindAt s.cfg a n with
  | some (.peripheral _) => s.free + 1
  | _ => s.free

/-- The state after a read of n bytes at a, which changes nothing the spec gives the machine. -/
def State.afterRead (s : State) (a : Addr) (n : Nat) : State := { s with free := s.freeAfter a n }

/-- A read of n bytes at a, `value` being what it gives: it has no outcome where `MEM` has nothing (20_memory.md R66,
R69; U7). -/
def readBytes {α : Type} (s : State) (a : Addr) (n : Nat) (value : α) : Except Refusal (α × State) :=
  if kindAt s.cfg a n = none then .error .absentAddress else .ok (value, s.afterRead a n)

/-- MemRead(a, 2): an instruction word, at PC or at a skip's look-ahead (20_memory.md R64, R66). -/
def readHalf (s : State) (a : Addr) : Except Refusal (Half × State) := readBytes s a 2 (s.halfAt a)

/-- MemRead(a, 4): the data word of LD, LDP and LDS, and a vector (20_memory.md R66). -/
def readWord (s : State) (a : Addr) : Except Refusal (Word × State) := readBytes s a 4 (s.wordAt a)

/-- A store of n bytes at a, `write` being its effect on plain memory (20_memory.md R66). A store to a
peripheral is delivered to it and changes nothing the CPU holds (R72; log 25). -/
def storeMemory (s : State) (a : Addr) (n : Nat) (write : Memory → Memory) : Except Refusal State :=
  match kindAt s.cfg a n with
  | some .ram => .ok { s with mem := write s.mem }
  | some .rom => .error .romStore
  | some (.peripheral _) => .ok s
  | none => .error .absentAddress

/-- MemWrite(a, 1, v) (20_memory.md R62, R67). -/
def storeByte (s : State) (a : Addr) (v : Byte) : Except Refusal State :=
  storeMemory s a 1 (fun m => m.put a.toNat v)

/-- MemWrite(a, 2, v) (20_memory.md R62, R67). -/
def storeHalf (s : State) (a : Addr) (v : Half) : Except Refusal State :=
  storeMemory s a 2 (fun m => m.putHalf a.toNat v)

/-- MemWrite(a, 4, v) (20_memory.md R62). -/
def storeWord (s : State) (a : Addr) (v : Word) : Except Refusal State :=
  storeMemory s a 4 (fun m => m.putWord a.toNat v)

/-! ## Control registers (10_state.md R36 to R42) -/

def State.ie (s : State) : Bool := statusIE s.status
def State.ipri (s : State) : ExcNum := statusIPRI s.status
def State.cwp (s : State) : BitVec 5 := statusCWP s.status
def State.flags (s : State) : Flags := statusFlags s.status
def State.hiLimit (s : State) : BitVec 5 := wvalidHi s.wvalid
def State.loLimit (s : State) : BitVec 5 := wvalidLo s.wvalid

/-- STATUS replaced as a whole. -/
def State.setStatus (s : State) (v : Half) : State := { s with status := v }

/-- The four condition codes replaced, IE, IPRI and CWP kept (10_state.md R40). -/
def State.setFlags (s : State) (f : Flags) : State :=
  { s with status := mkStatus s.ie s.ipri s.cwp f.toBits }

/-- CWP replaced, the rest of STATUS kept (10_state.md R39). -/
def State.setCwp (s : State) (c : BitVec 5) : State :=
  { s with status := mkStatus s.ie s.ipri c (statusNVZC s.status) }

/-- IE replaced, the rest of STATUS kept (10_state.md R43, R44). -/
def State.setIe (s : State) (b : Bool) : State :=
  { s with status := mkStatus b s.ipri s.cwp (statusNVZC s.status) }

/-! ## Registers through the window (10_state.md R22 to R25) -/

/-- The physical index of visible register i at window c (10_state.md R24; log 1). -/
def phys (c : BitVec 5) (i : Reg) : Nat := if i.toNat < 8 then i.toNat else 16 * c.toNat + i.toNat

/-- x[i] (00_scope.md R13); outside the register file the access has no outcome (10_state.md R24, U12). -/
def readReg (s : State) (i : Reg) : Except Refusal Word :=
  match s.regs[phys s.cwp i]? with
  | some v => .ok v
  | none => .error .outsideRegisterFile

/-- x[i] <- v (00_scope.md R13); no register ignores writes (10_state.md R22). -/
def writeReg (s : State) (i : Reg) (v : Word) : Except Refusal State :=
  if phys s.cwp i < s.regs.length then .ok { s with regs := s.regs.set (phys s.cwp i) v }
  else .error .outsideRegisterFile

/-! ## The step around an instruction (10_state.md R46) -/

/-- An operation's answer as the host's outcome. -/
def answer : Except Refusal State → Host.Outcome State Fault Refusal
  | .ok s => .next s
  | .error r => .refused r

/-- S3: after a WRCTL to STATUS only the word 0x3000 runs (70_reset_and_hazards.md R384; log 16). -/
def requireNoWstat (s : State) : Except Refusal Unit :=
  if s.wstat then .error .nopRequired else .ok ()

/-- The same for MOV, of which one word, 0x3000, is NOP. -/
def requireNopAfterWstat (s : State) (nop : Bool) : Except Refusal Unit :=
  if nop then .ok () else requireNoWstat s

/-- S3: the twelve instructions of 70_reset_and_hazards.md R381 do not run in a delay slot. -/
def requireNoSlot (s : State) : Except Refusal Unit :=
  if s.ds.isSome then .error .forbiddenInSlot else .ok ()

/-- S3: PFX does not run directly after PFX (70_reset_and_hazards.md R386). -/
def requireNoPfx (s : State) : Except Refusal Unit :=
  if s.pfxd then .error .pfxAfterPfx else .ok ()

/-- `next` as S4 sets it: the pending branch target, or the following address modulo 2^33 (R31; log 3). -/
def State.nextPc (s : State) : Addr := s.ds.getD (s.pc + 2)

/-- S4, S6 and S7 of an instruction that is not PFX and leaves `next` alone: DS and WSTAT cleared, K zero, PC
advanced. -/
def State.retire (s : State) : State :=
  { s with pc := s.nextPc, ds := none, wstat := false, k := 0, pfxd := false }

/-- The same for an instruction that assigns `next`. -/
def State.retireTo (s : State) (next : Addr) : State := { s.retire with pc := next }

/-- The same for a delayed transfer: DS <- target (46_control_flow.md R245). -/
def State.retireDelayed (s : State) (target : Addr) : State := { s.retire with ds := some target }

/-- An instruction that may stand in a delay slot: what it does to the state, then the common tail. -/
def ordinary (s : State) (body : Except Refusal State) : Host.Outcome State Fault Refusal :=
  answer do
    requireNoWstat s
    let t ← body
    pure t.retire

/-! ## Exceptions (60_exceptions.md) -/

/-- The address of the entry of exception n in the vector table (60_exceptions.md R311). -/
def vectorAddress (s : State) (n : ExcNum) : Addr := s.cfg.vecBase + 4 * n.setWidth 33

/-- CWP - 1, which has no outcome at CWP = 0 (60_exceptions.md R330, U10). -/
def cwpDown (s : State) : Except Refusal (BitVec 5) :=
  if s.cwp = 0 then .error .cwpBelowZero else .ok (s.cwp - 1)

/-- CWP + 1, which has no outcome at CWP = 31 (47_system.md R281, U11). -/
def cwpUp (s : State) : Except Refusal (BitVec 5) :=
  if s.cwp = 31 then .error .cwpAboveMax else .ok (s.cwp + 1)

/-- The window an exception runs in: the next lower one if `dec`, else the current one (60_exceptions.md R320). -/
def handlerWindow (s : State) (dec : Bool) : Except Refusal (BitVec 5) := if dec then cwpDown s else .ok s.cwp

/-- An address as code addresses are held in registers: shifted right by one (10_state.md R30). -/
def codeAddress (a : Addr) : Word := a.extractLsb' 1 32

/-- The byte address of a code address held in a register: shifted left by one (10_state.md R30). -/
def byteAddress (v : Word) : Addr := v ++ 0#1

/-- TakeException(n, ret, dec) (60_exceptions.md R320): STATUS saved in ISTATUS; CWP down by one if `dec`;
IE <- 0; IPRI <- n; %o7 of the new window <- ret >> 1; PC <- twice the entry of the vector table (R311, R324);
K, PFXD, DS and WSTAT cleared (log 8). -/
def takeException (s : State) (n : ExcNum) (ret : Addr) (dec : Bool) : Except Refusal State := do
  let cwp ← handlerWindow s dec
  let entered := { s with istatus := s.status, status := mkStatus false n cwp (statusNVZC s.status) }
  let linked ← writeReg entered 15 (codeAddress ret)
  let (entry, t) ← readWord linked (vectorAddress s n)
  pure { t with pc := byteAddress entry, k := 0, pfxd := false, ds := none, wstat := false }

/-- S8: the internal exception e requested by the instruction that has just finished, processed when IE = 1
and e < IPRI, dropped otherwise (60_exceptions.md R317; log 13). -/
def internalException (s : State) (e : ExcNum) (dec : Bool) : Except Refusal State :=
  if s.ie && e < s.ipri then takeException s e s.pc dec else .ok s

/-- S8 of SAVE and RESTORE, which request exception e when the old CWP was the limit (60_exceptions.md R316). -/
def windowException (s : State) (atLimit : Bool) (e : ExcNum) (dec : Bool) : Except Refusal State :=
  if atLimit then internalException s e dec else .ok s

/-- TRET's effect (47_system.md R284): STATUS <- ISTATUS, PC <- the target, no delay slot. -/
def returnFromException (s : State) (target : Addr) : State := (s.setStatus s.istatus).retireTo target

/-! ## Interrupt inputs and fetch (10_state.md R46, R47) -/

/-- This step's (irq, irq_number) (10_state.md R47). -/
def State.irq (s : State) : Option ExcNum := s.irqs.head?.join

/-- The input of this step has been sampled; it is not latched (60_exceptions.md R314). -/
def State.sampled (s : State) : State := { s with irqs := s.irqs.tail }

/-- S1: the interrupt that is taken before the instruction at PC (60_exceptions.md R315). -/
def interruptTaken (s : State) : Option ExcNum :=
  match s.irq with
  | some n => if s.ie && n < s.ipri && !s.pfxd && s.ds.isNone then some n else none
  | none => none

/-- S1: TakeException(irq_number, PC, true). -/
def takeInterrupt (s : State) (n : ExcNum) : Host.Outcome State Fault Refusal :=
  answer (takeException s n s.pc true)

/-- S2: the instruction word at PC. -/
def fetch (s : State) : Except Refusal (Half × State) := readHalf s s.pc

/-- A reset in the middle of a run: memory keeps its contents, the rest is the reset state
(70_reset_and_hazards.md R363; log 35). An action of the environment, no part of `step`; the coming inputs and
the numbering of free values go on. -/
def State.applyReset (s : State) : State :=
  { State.resetWith s.cfg s.mem with irqs := s.irqs, free := s.free }

end Sys2Proof.Machine
end

