-- ==== Sys2Proof/Machine/Flags.lean ====
section
/-! DEFINITION. The flag computations and the condition tests (40_arithmetic.md R130, 43_logical_bit.md R180,
46_control_flow.md R268). -/

namespace Sys2Proof.Machine

/-- The flags of a + b (40_arithmetic.md R130): C the carry-out, V the signed overflow. -/
def addFlags (a b : Word) : Flags :=
  { n := (a + b).msb
    v := a.msb == b.msb && (a + b).msb != a.msb
    z := a + b == 0
    c := decide (2 ^ 32 ≤ a.toNat + b.toNat) }

/-- The flags of a - b (40_arithmetic.md R130): C the borrow, V the signed overflow. -/
def subFlags (a b : Word) : Flags :=
  { n := (a - b).msb
    v := a.msb != b.msb && (a - b).msb != a.msb
    z := a - b == 0
    c := decide (a.toNat < b.toNat) }

/-- N and Z of a logical result, V and C kept (43_logical_bit.md R180). -/
def logicFlags (old : Flags) (r : Word) : Flags := { old with n := r.msb, z := r == 0 }

/-- C alone replaced (41_shift_rotate.md R157, R158). -/
def carryFlag (old : Flags) (c : Bool) : Flags := { old with c := c }

/-- The test of condition IMM4 (46_control_flow.md R268); 14 and 15 are not defined (U4). -/
def condition (imm4 : BitVec 4) (f : Flags) : Except Refusal Bool :=
  match imm4.toNat with
  | 0 => .ok f.c
  | 1 => .ok (!f.c)
  | 2 => .ok f.z
  | 3 => .ok (!f.z)
  | 4 => .ok f.n
  | 5 => .ok (!f.n)
  | 6 => .ok (!(f.n != f.v))
  | 7 => .ok (f.n != f.v)
  | 8 => .ok (f.z || (f.n != f.v))
  | 9 => .ok (!(f.z || (f.n != f.v)))
  | 10 => .ok f.v
  | 11 => .ok (!f.v)
  | 12 => .ok (f.c || f.z)
  | 13 => .ok (!(f.c || f.z))
  | _ => .error .undefinedCondition

end Sys2Proof.Machine
end

