-- ==== Sys2Proof/Machine/Operands.lean ====
section
/-! DEFINITION. The operand forms: immediates, lanes, effective addresses (30_encoding.md R96, R110, R111;
44_extract_fill.md R195; 45_load_store.md R215; 20_memory.md R65, R67). -/

namespace Sys2Proof.Machine

/-! ## Immediates -/

/-- imm16 = K : IMM5 (30_encoding.md R110). K is 0 unless the previous instruction was PFX. -/
def imm16 (s : State) (imm5 : BitVec 5) : BitVec 16 := s.k ++ imm5

/-- The operand of ADDI, SUBI, CMPI, MOVI: imm16 zero-extended (30_encoding.md R110). -/
def immediate (s : State) (imm5 : BitVec 5) : Word := (imm16 s imm5).setWidth 32

/-- The second operand of AND, ANDN, OR, XOR: the immediate when PFXD, else register B (43_logical_bit.md R180). -/
def logicOperand (s : State) (b : BitVec 5) : Except Refusal Word :=
  if s.pfxd then .ok (immediate s b) else readReg s b

/-- The count of LSL, LSR, ASR: bits 4:0 of the register (41_shift_rotate.md R150). -/
def shiftCount (v : Word) : BitVec 5 := v.extractLsb' 0 5

/-! ## Lanes (44_extract_fill.md R195) -/

/-- bnX: the n-th byte of X. -/
def byteLane (x : Word) (n : BitVec 2) : Byte := x.extractLsb' (8 * n.toNat) 8

/-- hnX: the n-th half-word of X. -/
def halfLane (x : Word) (n : BitVec 1) : Half := x.extractLsb' (16 * n.toNat) 16

/-- sext_N (00_scope.md R13). -/
def sext {n : Nat} (v : BitVec n) : Word := v.signExtend 32

/-! ## Effective addresses (45_load_store.md R215: 32-bit sums; log 5) -/

/-- align32: bits 1:0 cleared (20_memory.md R65). -/
def align32 (a : Word) : Word := (a.extractLsb' 2 30 : BitVec 30) ++ 0b00#2

/-- koff: K as a signed count of words (45_load_store.md R215 b). -/
def koff (s : State) : Word := sext s.k * 4

/-- poff: K : IMM5 as a signed count of words (45_load_store.md R215 c). -/
def poff (s : State) (imm5 : BitVec 5) : Word := sext (imm16 s imm5) * 4

/-- The word address of an effective address, in the 33-bit space. -/
def wordAddress (ea : Word) : Addr := (align32 ea).setWidth 33

/-- The address of byte lane n of the word that holds `ea` (20_memory.md R67). -/
def byteLaneAddress (ea : Word) (n : BitVec 2) : Addr := wordAddress ea + n.setWidth 33

/-- The address of half-word lane n of the word that holds `ea` (20_memory.md R67). -/
def halfLaneAddress (ea : Word) (n : BitVec 1) : Addr := wordAddress ea + 2 * n.setWidth 33

/-- The base of LDS, STS, STS8s and STS16s, and the register SAVE writes: %sp = %o6 (10_state.md R23). -/
def sp : Reg := 14

/-- The frame pointer SAVE reads: %fp = %i6 (10_state.md R23). -/
def fp : Reg := 30

/-- The return-address register: %o7 (10_state.md R23). -/
def o7 : Reg := 15

/-- The implicit register of the partial stores, FILL, MUL and MSTEP: %r0 (10_state.md R23). -/
def r0 : Reg := 0

end Sys2Proof.Machine
end

