-- ==== Sys2Proof/Machine/Forms.lean ====
section
/-! DEFINITION. The shapes that several instructions share; each instruction's meaning is one of these over
its own operation. -/

namespace Sys2Proof.Machine

/-- x[A] <- f x[A]. -/
def updateReg (s : State) (a : Reg) (f : Word → Word) : Host.Outcome State Fault Refusal :=
  ordinary s do
    let x ← readReg s a
    writeReg s a (f x)

/-- x[A] <- f x[A] x[B], both read before the write. -/
def combineRegs (s : State) (a b : Reg) (f : Word → Word → Word) : Host.Outcome State Fault Refusal :=
  ordinary s do
    let x ← readReg s a
    let y ← readReg s b
    writeReg s a (f x y)

/-- x[0] <- f x[0] x[A], both read before the write: the implicit %r0 (10_state.md R23). -/
def accumulate (s : State) (a : Reg) (f : Word → Word → Word) : Host.Outcome State Fault Refusal :=
  ordinary s do
    let t ← readReg s r0
    let m ← readReg s a
    writeReg s r0 (f t m)

/-- Addition of `operand` to register A with all four flags (40_arithmetic.md R130). -/
def addTo (s : State) (a : Reg) (operand : Except Refusal Word) : Host.Outcome State Fault Refusal :=
  ordinary s do
    let x ← readReg s a
    let y ← operand
    let t ← writeReg s a (x + y)
    pure (t.setFlags (addFlags x y))

/-- Subtraction of `operand` from register A with all four flags (40_arithmetic.md R130). -/
def subtractFrom (s : State) (a : Reg) (operand : Except Refusal Word) : Host.Outcome State Fault Refusal :=
  ordinary s do
    let x ← readReg s a
    let y ← operand
    let t ← writeReg s a (x - y)
    pure (t.setFlags (subFlags x y))

/-- The same subtraction with its result discarded (40_arithmetic.md R135, R136). -/
def compareWith (s : State) (a : Reg) (operand : Except Refusal Word) : Host.Outcome State Fault Refusal :=
  ordinary s do
    let x ← readReg s a
    let y ← operand
    pure (s.setFlags (subFlags x y))

/-- The two-operand logical instructions, with N and Z (43_logical_bit.md R180). -/
def logical (s : State) (a : Reg) (b : BitVec 5) (f : Word → Word → Word) : Host.Outcome State Fault Refusal :=
  ordinary s do
    let x ← readReg s a
    let y ← logicOperand s b
    let t ← writeReg s a (f x y)
    pure (t.setFlags (logicFlags s.flags (f x y)))

/-- x[A] <- MemRead(align32(x[base] + offset), 4) (45_load_store.md R215). -/
def loadFrom (s : State) (a base : Reg) (offset : Word) : Host.Outcome State Fault Refusal :=
  ordinary s do
    let p ← readReg s base
    let (v, t) ← readWord s (wordAddress (p + offset))
    writeReg t a v

/-- MemWrite(align32(x[base] + offset), 4, x[A]) (45_load_store.md R215). -/
def storeTo (s : State) (a base : Reg) (offset : Word) : Host.Outcome State Fault Refusal :=
  ordinary s do
    let p ← readReg s base
    let v ← readReg s a
    storeWord s (wordAddress (p + offset)) v

/-- Byte lane n of %r0 to the same lane of the word at align32(x[base] + offset), n a function of the base
(20_memory.md R67). -/
def storeByteLane (s : State) (base : Reg) (offset : Word) (lane : Word → BitVec 2) :
    Host.Outcome State Fault Refusal :=
  ordinary s do
    let p ← readReg s base
    let d ← readReg s r0
    storeByte s (byteLaneAddress (p + offset) (lane p)) (byteLane d (lane p))

/-- Half-word lane n of %r0 to the same lane of the word at align32(x[base] + offset) (20_memory.md R67). -/
def storeHalfLane (s : State) (base : Reg) (offset : Word) (lane : Word → BitVec 1) :
    Host.Outcome State Fault Refusal :=
  ordinary s do
    let p ← readReg s base
    let d ← readReg s r0
    storeHalf s (halfLaneAddress (p + offset) (lane p)) (halfLane d (lane p))

/-- IMM11 as a branch displacement: cur + 2 * (sext(IMM11) + 1) modulo 2^33 (46_control_flow.md R246). -/
def branchTarget (s : State) (imm11 : BitVec 11) : Addr := s.pc + 2 * (imm11.signExtend 33 + 1)

/-- x[15] <- (cur + 4) >> 1 (46_control_flow.md R247, R249). -/
def link (s : State) : Except Refusal State := writeReg s o7 (codeAddress (s.pc + 4))

/-- An instruction that must not stand in a delay slot (70_reset_and_hazards.md R381); `body` does all of
the step's S4 to S8. -/
def outsideSlot (s : State) (body : Except Refusal State) : Host.Outcome State Fault Refusal :=
  answer do
    requireNoWstat s
    requireNoSlot s
    body

/-- The distance a skip adds when its condition holds: over a PFX and its instruction together
(46_control_flow.md R262). -/
def skipDistance (nextWord : Half) : Addr := if nextWord &&& 0xF800 = 0x9800 then 6 else 4

/-- The skip operation: the next word is read whether or not the condition holds (46_control_flow.md R262). -/
def skipIf (s : State) (test : Except Refusal Bool) : Host.Outcome State Fault Refusal :=
  outsideSlot s do
    let taken ← test
    let (nextWord, t) ← readHalf s (s.pc + 2)
    pure (t.retireTo (s.pc + if taken then skipDistance nextWord else 2))

end Sys2Proof.Machine
end

