-- ==== Sys2Proof/Machine/Arithmetic.lean ====
section
/-! DEFINITION. Arithmetic instructions (40_arithmetic.md). -/

namespace Sys2Proof.Machine

/-- ADD (R131). -/
def execAdd (a b : Reg) (s : State) : Host.Outcome State Fault Refusal := addTo s a (readReg s b)

/-- ADDI (R132). -/
def execAddi (a : Reg) (imm5 : BitVec 5) (s : State) : Host.Outcome State Fault Refusal :=
  addTo s a (.ok (immediate s imm5))

/-- SUB (R133). -/
def execSub (a b : Reg) (s : State) : Host.Outcome State Fault Refusal := subtractFrom s a (readReg s b)

/-- SUBI (R134). -/
def execSubi (a : Reg) (imm5 : BitVec 5) (s : State) : Host.Outcome State Fault Refusal :=
  subtractFrom s a (.ok (immediate s imm5))

/-- CMP (R135). -/
def execCmp (a b : Reg) (s : State) : Host.Outcome State Fault Refusal := compareWith s a (readReg s b)

/-- CMPI (R136). -/
def execCmpi (a : Reg) (imm5 : BitVec 5) (s : State) : Host.Outcome State Fault Refusal :=
  compareWith s a (.ok (immediate s imm5))

/-- NEG (R140): the flags keep their values. -/
def execNeg (a : Reg) (s : State) : Host.Outcome State Fault Refusal := updateReg s a (fun x => 0 - x)

/-- ABS (R137): 0x80000000 stays (log 32). -/
def execAbs (a : Reg) (s : State) : Host.Outcome State Fault Refusal :=
  updateReg s a (fun x => if x.msb then 0 - x else x)

/-- MSTEP (R138), one step of an unsigned multiply. A CPU built without it has no such word (U1; log 15). -/
def execMstep (a : Reg) (s : State) : Host.Outcome State Fault Refusal :=
  if s.cfg.hasMstep then accumulate s a (fun t m => if t.msb then (t <<< 1) + m else t <<< 1)
  else .refused .notConfigured

/-- MUL (R139): the unsigned product of the low half-words (log 33). A CPU built without it has no such word
(U1; log 15). -/
def execMul (a : Reg) (s : State) : Host.Outcome State Fault Refusal :=
  if s.cfg.hasMul then accumulate s a (fun t m => (t &&& 0xFFFF) * (m &&& 0xFFFF))
  else .refused .notConfigured

end Sys2Proof.Machine
end

