-- ==== Sys2Proof/Machine/Extract.lean ====
section
/-! DEFINITION. Extract, sign-extend and fill (44_extract_fill.md). None reads K or writes a flag. -/

namespace Sys2Proof.Machine

/-- EXT8d (R196): the byte that RB[1:0] selects. -/
def execExt8d (a b : Reg) (s : State) : Host.Outcome State Fault Refusal :=
  combineRegs s a b (fun x y => (byteLane x (y.extractLsb' 0 2)).setWidth 32)

/-- EXT8s (R197): the byte that IMM2 selects. -/
def execExt8s (a : Reg) (imm2 : BitVec 2) (s : State) : Host.Outcome State Fault Refusal :=
  updateReg s a (fun x => (byteLane x imm2).setWidth 32)

/-- EXT16d (R198): the half-word that RB[1] selects. -/
def execExt16d (a b : Reg) (s : State) : Host.Outcome State Fault Refusal :=
  combineRegs s a b (fun x y => (halfLane x (y.extractLsb' 1 1)).setWidth 32)

/-- EXT16s (R199): the half-word that IMM1 selects. -/
def execExt16s (a : Reg) (imm1 : BitVec 1) (s : State) : Host.Outcome State Fault Refusal :=
  updateReg s a (fun x => (halfLane x imm1).setWidth 32)

/-- SEXT8 (R200). -/
def execSext8 (a : Reg) (s : State) : Host.Outcome State Fault Refusal :=
  updateReg s a (fun x => sext (byteLane x 0))

/-- SEXT16 (R201). -/
def execSext16 (a : Reg) (s : State) : Host.Outcome State Fault Refusal :=
  updateReg s a (fun x => sext (halfLane x 0))

/-- FILL8 (R207): %r0 gets four copies of the low byte. -/
def execFill8 (a : Reg) (s : State) : Host.Outcome State Fault Refusal :=
  accumulate s a (fun _ x => byteLane x 0 ++ byteLane x 0 ++ byteLane x 0 ++ byteLane x 0)

/-- FILL16 (R208): %r0 gets two copies of the low half-word. -/
def execFill16 (a : Reg) (s : State) : Host.Outcome State Fault Refusal :=
  accumulate s a (fun _ x => halfLane x 0 ++ halfLane x 0)

end Sys2Proof.Machine
end

