-- ==== Sys2Proof/Machine/Flow.lean ====
section
/-! DEFINITION. Program-flow control (46_control_flow.md). None touches a flag or reads K, and none may stand
in a delay slot. -/

namespace Sys2Proof.Machine

/-- BR (R246). -/
def execBr (imm11 : BitVec 11) (s : State) : Host.Outcome State Fault Refusal :=
  outsideSlot s (.ok (s.retireDelayed (branchTarget s imm11)))

/-- BSR (R247): %o7 is written before the delay slot runs. -/
def execBsr (imm11 : BitVec 11) (s : State) : Host.Outcome State Fault Refusal :=
  outsideSlot s do
    let t ← link s
    pure (t.retireDelayed (branchTarget s imm11))

/-- JMP (R248): the target is read now, not after the delay slot. -/
def execJmp (a : Reg) (s : State) : Host.Outcome State Fault Refusal :=
  outsideSlot s do
    let x ← readReg s a
    pure (s.retireDelayed (byteAddress x))

/-- CALL (R249): the target is read before %o7 is written (log 14). -/
def execCall (a : Reg) (s : State) : Host.Outcome State Fault Refusal :=
  outsideSlot s do
    let x ← readReg s a
    let t ← link s
    pure (t.retireDelayed (byteAddress x))

/-- SKP0 (R263). -/
def execSkp0 (a : Reg) (imm5 : BitVec 5) (s : State) : Host.Outcome State Fault Refusal :=
  skipIf s do
    let x ← readReg s a
    pure (!x.getLsbD imm5.toNat)

/-- SKP1 (R264). -/
def execSkp1 (a : Reg) (imm5 : BitVec 5) (s : State) : Host.Outcome State Fault Refusal :=
  skipIf s do
    let x ← readReg s a
    pure (x.getLsbD imm5.toNat)

/-- SKPRz (R265). -/
def execSkprz (a : Reg) (s : State) : Host.Outcome State Fault Refusal :=
  skipIf s do
    let x ← readReg s a
    pure (x == 0)

/-- SKPRnz (R266). -/
def execSkprnz (a : Reg) (s : State) : Host.Outcome State Fault Refusal :=
  skipIf s do
    let x ← readReg s a
    pure (x != 0)

/-- SKPS (R267). -/
def execSkps (imm4 : BitVec 4) (s : State) : Host.Outcome State Fault Refusal :=
  skipIf s (condition imm4 s.flags)

end Sys2Proof.Machine
end

