-- ==== Sys2Proof/Machine/LoadStore.lean ====
section
/-! DEFINITION. Load and store instructions (45_load_store.md). None writes a flag. -/

namespace Sys2Proof.Machine

/-- LD (R216). -/
def execLd (a b : Reg) (s : State) : Host.Outcome State Fault Refusal := loadFrom s a b (koff s)

/-- LDP (R218). -/
def execLdp (p : Reg) (imm5 : BitVec 5) (a : Reg) (s : State) : Host.Outcome State Fault Refusal :=
  loadFrom s a p (poff s imm5)

/-- LDS (R220); K is not read. -/
def execLds (imm8 : BitVec 8) (a : Reg) (s : State) : Host.Outcome State Fault Refusal :=
  loadFrom s a sp (imm8.setWidth 32 * 4)

/-- ST (R217). -/
def execSt (a b : Reg) (s : State) : Host.Outcome State Fault Refusal := storeTo s a b (koff s)

/-- STP (R219). -/
def execStp (p : Reg) (imm5 : BitVec 5) (a : Reg) (s : State) : Host.Outcome State Fault Refusal :=
  storeTo s a p (poff s imm5)

/-- STS (R221); K is not read. -/
def execSts (imm8 : BitVec 8) (a : Reg) (s : State) : Host.Outcome State Fault Refusal :=
  storeTo s a sp (imm8.setWidth 32 * 4)

/-- ST8d (R222): the lane is RA[1:0]. -/
def execSt8d (a : Reg) (s : State) : Host.Outcome State Fault Refusal :=
  storeByteLane s a (koff s) (fun p => p.extractLsb' 0 2)

/-- ST8s (R223): the lane is IMM2. -/
def execSt8s (a : Reg) (imm2 : BitVec 2) (s : State) : Host.Outcome State Fault Refusal :=
  storeByteLane s a (koff s) (fun _ => imm2)

/-- ST16d (R224): the lane is RA[1]. -/
def execSt16d (a : Reg) (s : State) : Host.Outcome State Fault Refusal :=
  storeHalfLane s a (koff s) (fun p => p.extractLsb' 1 1)

/-- ST16s (R225): the lane is IMM1. -/
def execSt16s (a : Reg) (imm1 : BitVec 1) (s : State) : Host.Outcome State Fault Refusal :=
  storeHalfLane s a (koff s) (fun _ => imm1)

/-- STS8s (R226): the lane is IMM10[1:0], also where %sp is not word-aligned (log 33); K is not read. -/
def execSts8s (imm10 : BitVec 10) (s : State) : Host.Outcome State Fault Refusal :=
  storeByteLane s sp (imm10.setWidth 32) (fun _ => imm10.extractLsb' 0 2)

/-- STS16s (R227): the lane is IMM9[0], also where %sp is not word-aligned (log 33); K is not read. -/
def execSts16s (imm9 : BitVec 9) (s : State) : Host.Outcome State Fault Refusal :=
  storeHalfLane s sp (imm9.setWidth 32 * 2) (fun _ => imm9.extractLsb' 0 1)

end Sys2Proof.Machine
end

