-- ==== Sys2Proof/Machine/Logical.lean ====
section
/-! DEFINITION. Logical and bit-generate instructions (43_logical_bit.md). -/

namespace Sys2Proof.Machine

/-- AND (R181). -/
def execAnd (a : Reg) (b : BitVec 5) (s : State) : Host.Outcome State Fault Refusal :=
  logical s a b (fun x y => x &&& y)

/-- ANDN (R182). -/
def execAndn (a : Reg) (b : BitVec 5) (s : State) : Host.Outcome State Fault Refusal :=
  logical s a b (fun x y => x &&& ~~~y)

/-- OR (R183). -/
def execOr (a : Reg) (b : BitVec 5) (s : State) : Host.Outcome State Fault Refusal :=
  logical s a b (fun x y => x ||| y)

/-- XOR (R184). -/
def execXor (a : Reg) (b : BitVec 5) (s : State) : Host.Outcome State Fault Refusal :=
  logical s a b (fun x y => x ^^^ y)

/-- NOT (R185): the flags keep their values. -/
def execNot (a : Reg) (s : State) : Host.Outcome State Fault Refusal := updateReg s a (fun x => ~~~x)

/-- BGEN (R186); K is not read. -/
def execBgen (a : Reg) (imm5 : BitVec 5) (s : State) : Host.Outcome State Fault Refusal :=
  ordinary s (writeReg s a ((1 : Word) <<< imm5.toNat))

end Sys2Proof.Machine
end

