-- ==== Sys2Proof/Machine/Move.lean ====
section
/-! DEFINITION. Move, prefix and half-word swap (42_move_prefix.md). None writes a flag. -/

namespace Sys2Proof.Machine

/-- MOV (R165). `MOV %g0,%g0` is NOP, the one instruction allowed after a WRCTL to STATUS (R170, 70 R384; log 16). -/
def execMov (a b : Reg) (s : State) : Host.Outcome State Fault Refusal :=
  answer do
    requireNopAfterWstat s (decide (a = 0 ∧ b = 0))
    let y ← readReg s b
    let t ← writeReg s a y
    pure t.retire

/-- MOVI (R166): bits 31:16 become 0. -/
def execMovi (a : Reg) (imm5 : BitVec 5) (s : State) : Host.Outcome State Fault Refusal :=
  ordinary s (writeReg s a (immediate s imm5))

/-- MOVHI (R167): bits 15:0 stay. -/
def execMovhi (a : Reg) (imm5 : BitVec 5) (s : State) : Host.Outcome State Fault Refusal :=
  updateReg s a (fun x => imm16 s imm5 ++ halfLane x 0)

/-- PFX (R168): K <- IMM11, PFXD <- true. Not in a delay slot (70 R381) and not after PFX (70 R386). -/
def execPfx (imm11 : BitVec 11) (s : State) : Host.Outcome State Fault Refusal :=
  outsideSlot s do
    requireNoPfx s
    pure { s.retire with k := imm11, pfxd := true }

/-- SWAP (R169). -/
def execSwap (a : Reg) (s : State) : Host.Outcome State Fault Refusal :=
  updateReg s a (fun x => halfLane x 0 ++ halfLane x 1)

end Sys2Proof.Machine
end

