-- ==== Sys2Proof/Machine/Shift.lean ====
section
/-! DEFINITION. Shift and rotate instructions (41_shift_rotate.md). The six shifts leave the flags. -/

namespace Sys2Proof.Machine

/-- LSL (R151). -/
def execLsl (a b : Reg) (s : State) : Host.Outcome State Fault Refusal :=
  combineRegs s a b (fun x y => x <<< (shiftCount y).toNat)

/-- LSLI (R152); K is not read. -/
def execLsli (a : Reg) (imm5 : BitVec 5) (s : State) : Host.Outcome State Fault Refusal :=
  updateReg s a (fun x => x <<< imm5.toNat)

/-- LSR (R153). -/
def execLsr (a b : Reg) (s : State) : Host.Outcome State Fault Refusal :=
  combineRegs s a b (fun x y => x >>> (shiftCount y).toNat)

/-- LSRI (R154); K is not read. -/
def execLsri (a : Reg) (imm5 : BitVec 5) (s : State) : Host.Outcome State Fault Refusal :=
  updateReg s a (fun x => x >>> imm5.toNat)

/-- ASR (R155). -/
def execAsr (a b : Reg) (s : State) : Host.Outcome State Fault Refusal :=
  combineRegs s a b (fun x y => x.sshiftRight (shiftCount y).toNat)

/-- ASRI (R156); K is not read. -/
def execAsri (a : Reg) (imm5 : BitVec 5) (s : State) : Host.Outcome State Fault Refusal :=
  updateReg s a (fun x => x.sshiftRight imm5.toNat)

/-- RLC (R157): a 33-bit rotation of C : RA to the left; only C is written (log 33). -/
def execRlc (a : Reg) (s : State) : Host.Outcome State Fault Refusal :=
  ordinary s do
    let x ← readReg s a
    let t ← writeReg s a ((x.extractLsb' 0 31 : BitVec 31) ++ BitVec.ofBool s.flags.c)
    pure (t.setFlags (carryFlag s.flags (x.getLsbD 31)))

/-- RRC (R158): a 33-bit rotation of RA : C to the right; only C is written (log 33). -/
def execRrc (a : Reg) (s : State) : Host.Outcome State Fault Refusal :=
  ordinary s do
    let x ← readReg s a
    let t ← writeReg s a (BitVec.ofBool s.flags.c ++ (x.extractLsb' 1 31 : BitVec 31))
    pure (t.setFlags (carryFlag s.flags (x.getLsbD 0)))

end Sys2Proof.Machine
end

