-- ==== Sys2Proof/Machine/System.lean ====
section
/-! DEFINITION. Register windows, traps, control registers and the reserved opcodes (47_system.md). -/

namespace Sys2Proof.Machine

/-- SAVE (R280): CWP down by one, then %sp <- %fp - 4 * IMM8 in the new window; window underflow when the old
CWP was LO_LIMIT, entered without a second decrement. -/
def execSave (imm8 : BitVec 8) (s : State) : Host.Outcome State Fault Refusal :=
  answer do
    requireNoWstat s
    let cwp ← cwpDown s
    let opened := s.setCwp cwp
    let frame ← readReg opened fp
    let t ← writeReg opened sp (frame - imm8.setWidth 32 * 4)
    windowException t.retire (s.cwp = s.loLimit) 1 false

/-- RESTORE (R281): CWP up by one; window overflow when the old CWP was HI_LIMIT. -/
def execRestore (s : State) : Host.Outcome State Fault Refusal :=
  answer do
    requireNoWstat s
    let cwp ← cwpUp s
    windowException (s.setCwp cwp).retire (s.cwp = s.hiLimit) 2 true

/-- TRAP (R282): the exception IMM6, whatever IE and IPRI are; the return location is the next instruction. -/
def execTrap (imm6 : ExcNum) (s : State) : Host.Outcome State Fault Refusal :=
  outsideSlot s (takeException s imm6 (s.pc + 2) true)

/-- TRET (R284). -/
def execTret (a : Reg) (s : State) : Host.Outcome State Fault Refusal :=
  outsideSlot s do
    let x ← readReg s a
    pure (returnFromException s (byteAddress x))

/-- The value RDCTL reads from control register k, and the state after (R295). CLR_IE and SET_IE give an
undefined result, a free value (10_state.md R43, R44; U5; log 24). The upper half is zero (log 12). -/
def readControl (s : State) (k : BitVec 11) : Except Refusal (Word × State) :=
  match k.toNat with
  | 0 => .ok (s.status.setWidth 32, s)
  | 1 => .ok (s.istatus.setWidth 32, s)
  | 2 => .ok (s.wvalid.setWidth 32, s)
  | 8 | 9 => .ok (Config.freeWord s.free, { s with free := s.free + 1 })
  | _ => .error .reservedControlRegister

/-- RDCTL (R295): the control register that K selects. -/
def execRdctl (a : Reg) (s : State) : Host.Outcome State Fault Refusal :=
  ordinary s do
    let (v, t) ← readControl s s.k
    writeReg t a v

/-- The effect of writing v to control register k (R296): WVALID bits 15:10 ignore writes, a read-only WVALID
ignores all of it (log 12); CLR_IE and SET_IE ignore the value (10_state.md R43, R44). -/
def writeControl (s : State) (k : BitVec 11) (v : Half) : Except Refusal State :=
  match k.toNat with
  | 0 => .ok (s.setStatus v)
  | 1 => .ok { s with istatus := v }
  | 2 => .ok (if s.cfg.wvalidWritable then { s with wvalid := v &&& 0x03FF } else s)
  | 8 => .ok (s.setIe false)
  | 9 => .ok (s.setIe true)
  | _ => .error .reservedControlRegister

/-- WRCTL (R296): a write to STATUS (K = 0) sets WSTAT. -/
def execWrctl (a : Reg) (s : State) : Host.Outcome State Fault Refusal :=
  answer do
    requireNoWstat s
    let x ← readReg s a
    let t ← writeControl s s.k (x.extractLsb' 0 16)
    pure { t.retire with wstat := decide (s.k = 0) }

/-- USR0, "Reserved for future use" (R300; U13). -/
def execUsr0 (_a _b : Reg) (_s : State) : Host.Outcome State Fault Refusal := .refused .reservedOpcode

/-- USR1, "Reserved for future use" (R301; U13). -/
def execUsr1 (_a : Reg) (_s : State) : Host.Outcome State Fault Refusal := .refused .reservedOpcode

/-- USR2, "Reserved for future use" (R302; U13). -/
def execUsr2 (_a : Reg) (_s : State) : Host.Outcome State Fault Refusal := .refused .reservedOpcode

/-- USR3, "Reserved for future use" (R303; U13). -/
def execUsr3 (_a : Reg) (_s : State) : Host.Outcome State Fault Refusal := .refused .reservedOpcode

/-- USR4, "Reserved for future use" (R304; U13). -/
def execUsr4 (_a : Reg) (_s : State) : Host.Outcome State Fault Refusal := .refused .reservedOpcode

end Sys2Proof.Machine
end

