-- ==== Sys2Proof/Machine/Dispatch.lean ====
section
/-! DEFINITION. Which meaning each instruction has. -/

namespace Sys2Proof.Machine

/-- The execution of one decoded instruction: S3 to S8 of the step (10_state.md R46). -/
def exec (i : Instr) (s : State) : Host.Outcome State Fault Refusal :=
  match i with
  | .add a b => Sys2Proof.Machine.execAdd a b s
  | .addi a imm5 => Sys2Proof.Machine.execAddi a imm5 s
  | .sub a b => Sys2Proof.Machine.execSub a b s
  | .subi a imm5 => Sys2Proof.Machine.execSubi a imm5 s
  | .cmp a b => Sys2Proof.Machine.execCmp a b s
  | .cmpi a imm5 => Sys2Proof.Machine.execCmpi a imm5 s
  | .lsl a b => Sys2Proof.Machine.execLsl a b s
  | .lsli a imm5 => Sys2Proof.Machine.execLsli a imm5 s
  | .lsr a b => Sys2Proof.Machine.execLsr a b s
  | .lsri a imm5 => Sys2Proof.Machine.execLsri a imm5 s
  | .asr a b => Sys2Proof.Machine.execAsr a b s
  | .asri a imm5 => Sys2Proof.Machine.execAsri a imm5 s
  | .mov a b => Sys2Proof.Machine.execMov a b s
  | .movi a imm5 => Sys2Proof.Machine.execMovi a imm5 s
  | .and a b => Sys2Proof.Machine.execAnd a b s
  | .andn a b => Sys2Proof.Machine.execAndn a b s
  | .or a b => Sys2Proof.Machine.execOr a b s
  | .xor a b => Sys2Proof.Machine.execXor a b s
  | .bgen a imm5 => Sys2Proof.Machine.execBgen a imm5 s
  | .ext8d a b => Sys2Proof.Machine.execExt8d a b s
  | .skp0 a imm5 => Sys2Proof.Machine.execSkp0 a imm5 s
  | .skp1 a imm5 => Sys2Proof.Machine.execSkp1 a imm5 s
  | .ld a b => Sys2Proof.Machine.execLd a b s
  | .st a b => Sys2Proof.Machine.execSt a b s
  | .sts8s imm10 => Sys2Proof.Machine.execSts8s imm10 s
  | .sts16s imm9 => Sys2Proof.Machine.execSts16s imm9 s
  | .ext16d a b => Sys2Proof.Machine.execExt16d a b s
  | .movhi a imm5 => Sys2Proof.Machine.execMovhi a imm5 s
  | .usr0 a b => Sys2Proof.Machine.execUsr0 a b s
  | .ext8s a imm2 => Sys2Proof.Machine.execExt8s a imm2 s
  | .ext16s a imm1 => Sys2Proof.Machine.execExt16s a imm1 s
  | .st8s a imm2 => Sys2Proof.Machine.execSt8s a imm2 s
  | .st16s a imm1 => Sys2Proof.Machine.execSt16s a imm1 s
  | .save imm8 => Sys2Proof.Machine.execSave imm8 s
  | .trap imm6 => Sys2Proof.Machine.execTrap imm6 s
  | .not a => Sys2Proof.Machine.execNot a s
  | .neg a => Sys2Proof.Machine.execNeg a s
  | .abs a => Sys2Proof.Machine.execAbs a s
  | .sext8 a => Sys2Proof.Machine.execSext8 a s
  | .sext16 a => Sys2Proof.Machine.execSext16 a s
  | .rlc a => Sys2Proof.Machine.execRlc a s
  | .rrc a => Sys2Proof.Machine.execRrc a s
  | .swap a => Sys2Proof.Machine.execSwap a s
  | .usr1 a => Sys2Proof.Machine.execUsr1 a s
  | .usr2 a => Sys2Proof.Machine.execUsr2 a s
  | .usr3 a => Sys2Proof.Machine.execUsr3 a s
  | .usr4 a => Sys2Proof.Machine.execUsr4 a s
  | .restore => Sys2Proof.Machine.execRestore s
  | .tret a => Sys2Proof.Machine.execTret a s
  | .st8d a => Sys2Proof.Machine.execSt8d a s
  | .st16d a => Sys2Proof.Machine.execSt16d a s
  | .fill8 a => Sys2Proof.Machine.execFill8 a s
  | .fill16 a => Sys2Proof.Machine.execFill16 a s
  | .mstep a => Sys2Proof.Machine.execMstep a s
  | .mul a => Sys2Proof.Machine.execMul a s
  | .skprz a => Sys2Proof.Machine.execSkprz a s
  | .skps imm4 => Sys2Proof.Machine.execSkps imm4 s
  | .wrctl a => Sys2Proof.Machine.execWrctl a s
  | .rdctl a => Sys2Proof.Machine.execRdctl a s
  | .skprnz a => Sys2Proof.Machine.execSkprnz a s
  | .jmp a => Sys2Proof.Machine.execJmp a s
  | .call a => Sys2Proof.Machine.execCall a s
  | .br imm11 => Sys2Proof.Machine.execBr imm11 s
  | .bsr imm11 => Sys2Proof.Machine.execBsr imm11 s
  | .pfx imm11 => Sys2Proof.Machine.execPfx imm11 s
  | .stp p imm5 a => Sys2Proof.Machine.execStp p imm5 a s
  | .ldp p imm5 a => Sys2Proof.Machine.execLdp p imm5 a s
  | .sts imm8 a => Sys2Proof.Machine.execSts imm8 a s
  | .lds imm8 a => Sys2Proof.Machine.execLds imm8 a s

end Sys2Proof.Machine
end

