-- ==== Sys2Proof/Machine/Step.lean ====
section
/-! DEFINITION. One step of the machine (10_state.md R46). -/

namespace Sys2Proof.Machine

/-- The input is sampled (R47); an interrupt that can be taken is taken and no instruction executes (S1);
otherwise the word at PC is fetched and decoded (S2) and its instruction executed (S3 to S8). -/
def step (s : State) : Host.Outcome State Fault Refusal :=
  match interruptTaken s with
  | some n => takeInterrupt s.sampled n
  | none =>
    match fetch s.sampled with
    | .error r => .refused r
    | .ok (w, t) =>
      match decodeWord w with
      | .error _ => .refused .unassignedWord
      | .ok i => exec i t

/-- `s` with the instruction of bits `w` (16 at most, those from `nbits` on zero) stored at PC, the low byte
at the lower address (20_memory.md R64). It stands for loading a program (log 23). -/
def State.withFetchWord (s : State) (nbits w : Nat) : State :=
  { s with mem := s.mem.putHalf s.pc.toNat (BitVec.ofNat 16 (w % 2 ^ nbits)) }

end Sys2Proof.Machine
end

