-- ==== Sys2Proof/Safety.lean ====
section
/-! DEFINITION. The words in which claims are stated: the visible registers, what an instruction leaves
unchanged, and the invariant of the machine. -/

namespace Sys2Proof.Machine

/-! ## Reading a state -/

/-- x[i], visible register i of the current window (00_scope.md R13); 0 outside the register file. -/
def State.x (s : State) (i : Reg) : Word := s.regs.getD (phys s.cwp i) 0

/-- Visible register i lies inside the register file (10_state.md R24). -/
abbrev State.visible (s : State) (i : Reg) : Prop := phys s.cwp i < s.regs.length

/-- The byte M[a] (20_memory.md R61). -/
def State.byte (s : State) (a : Nat) : Byte := s.mem.get a

/-- The outcome is a next state, and `P` holds of it. -/
abbrev Completes (o : Host.Outcome State Fault Refusal) (P : State → Prop) : Prop := ∃ t, o = .next t ∧ P t

/-- The n bytes at a are plain memory that can be read (20_memory.md R60). -/
abbrev State.readable (s : State) (a : Addr) (n : Nat) : Prop :=
  kindAt s.cfg a n = some .ram ∨ kindAt s.cfg a n = some .rom

/-- Something stands at the n bytes at a: memory or a peripheral (20_memory.md R60). -/
abbrev State.present (s : State) (a : Addr) (n : Nat) : Prop := kindAt s.cfg a n ≠ none

/-- This step takes no interrupt: none is requested, or the one that is is masked by IE, IPRI, a pending prefix or a
pending branch (60_exceptions.md R315; log 4). -/
abbrev State.uninterrupted (s : State) : Prop :=
  ∀ n, s.irqs.head? = some (some n) →
    s.ie = false ∨ s.ipri.toNat ≤ n.toNat ∨ s.pfxd = true ∨ s.ds.isSome = true

/-! ## What changes and what does not -/

/-- S4, S6 and S7 of an instruction that is not PFX and goes on at `next` with no transfer pending
(10_state.md R46). -/
structure EndsAt (s t : State) (next : Addr) : Prop where
  pc : t.pc = next
  ds : t.ds = none
  wstat : t.wstat = false
  k : t.k = 0
  pfxd : t.pfxd = false

/-- Nothing but STATUS, registers, memory, the free counter and the sequencing state may have changed. -/
structure KeepsSystem (s t : State) : Prop where
  cfg : t.cfg = s.cfg
  istatus : t.istatus = s.istatus
  wvalid : t.wvalid = s.wvalid
  irqs : t.irqs = s.irqs

/-- Every byte of memory reads as before. -/
def KeepsMemory (s t : State) : Prop := ∀ a, t.byte a = s.byte a

/-- Every byte of memory outside the n bytes from a reads as before. -/
def KeepsMemoryBut (s t : State) (a n : Nat) : Prop := ∀ b, (b < a ∨ a + n ≤ b) → t.byte b = s.byte b

/-- Every physical register but number n holds what it held. -/
def KeepsRegsBut (s t : State) (n : Nat) : Prop :=
  t.regs.length = s.regs.length ∧ ∀ m, m ≠ n → t.regs[m]? = s.regs[m]?

/-- Visible register a holds v, and no other physical register changed. -/
def WritesReg (s t : State) (a : Reg) (v : Word) : Prop :=
  t.regs[phys s.cwp a]? = some v ∧ KeepsRegsBut s t (phys s.cwp a)

/-- The condition codes are f, and the rest of STATUS is as before. -/
def WritesFlags (s t : State) (f : Flags) : Prop :=
  t.flags = f ∧ t.ie = s.ie ∧ t.ipri = s.ipri ∧ t.cwp = s.cwp

/-- An instruction with a register result v in x[a] and condition codes f, and no other effect but the end
of its step. -/
structure ResultIs (s t : State) (a : Reg) (v : Word) (f : Flags) : Prop where
  reg : WritesReg s t a v
  flags : WritesFlags s t f
  ends : EndsAt s t s.nextPc
  system : KeepsSystem s t
  free : t.free = s.free
  memory : KeepsMemory s t

/-- No register changed; memory outside the n bytes from a is as before; STATUS is as before. -/
structure StoresAt (s t : State) (a n : Nat) : Prop where
  regs : t.regs = s.regs
  status : t.status = s.status
  ends : EndsAt s t s.nextPc
  system : KeepsSystem s t
  free : t.free = s.free
  memory : KeepsMemoryBut s t a n

/-- Registers, STATUS, memory and the rest hold what they held: only the sequencing state may have changed. -/
structure KeepsData (s t : State) : Prop where
  regs : t.regs = s.regs
  status : t.status = s.status
  system : KeepsSystem s t
  free : t.free = s.free
  memory : KeepsMemory s t

/-- The condition codes are f; no register and nothing else changed but the end of the step. -/
structure FlagsAre (s t : State) (f : Flags) : Prop where
  regs : t.regs = s.regs
  flags : WritesFlags s t f
  ends : EndsAt s t s.nextPc
  system : KeepsSystem s t
  free : t.free = s.free
  memory : KeepsMemory s t

/-- A delayed transfer to `target` is pending and the slot instruction is next (46_control_flow.md R245). -/
structure Delayed (s t : State) (target : Addr) : Prop where
  pc : t.pc = s.pc + 2
  ds : t.ds = some target
  wstat : t.wstat = false
  k : t.k = 0
  pfxd : t.pfxd = false

/-- CWP is `window`; the rest of STATUS and everything but registers and the sequencing state is as before. -/
structure WindowMoved (s t : State) (window : BitVec 5) : Prop where
  cwp : t.cwp = window
  ie : t.ie = s.ie
  ipri : t.ipri = s.ipri
  flags : t.flags = s.flags
  system : KeepsSystem s t
  free : t.free = s.free
  memory : KeepsMemory s t

/-- SAVE without its exception (47_system.md R280): the window one lower, the new %sp below the old one by
4 * IMM8, no other register changed. -/
structure Saved (s t : State) (imm8 : BitVec 8) : Prop where
  window : WindowMoved s t (s.cwp - 1)
  sp : t.x 14 = s.x 14 - 4 * imm8.setWidth 32
  fp : t.x 30 = s.x 14
  regs : KeepsRegsBut s t (phys (s.cwp - 1) 14)
  ends : EndsAt s t s.nextPc

/-- RESTORE without its exception (47_system.md R281): the window one higher, no register changed. -/
structure Restored (s t : State) : Prop where
  window : WindowMoved s t (s.cwp + 1)
  regs : t.regs = s.regs
  ends : EndsAt s t s.nextPc

/-- The exception n is entered from the state m (60_exceptions.md R320), with return location ret, the new
window being `window` and the pc at `handler`. -/
structure Entered (m t : State) (n : ExcNum) (ret : Addr) (window : BitVec 5) (handler : Addr) : Prop where
  istatus : t.istatus = m.status
  ie : t.ie = false
  ipri : t.ipri = n
  cwp : t.cwp = window
  flags : t.flags = m.flags
  link : t.x 15 = codeAddress ret
  regs : KeepsRegsBut m t (phys window 15)
  ends : EndsAt m t handler
  cfg : t.cfg = m.cfg
  wvalid : t.wvalid = m.wvalid
  irqs : t.irqs = m.irqs
  free : t.free = m.freeAfter (vectorAddress m n) 4
  memory : KeepsMemory m t

/-- The handler's byte address, twice the entry (60_exceptions.md R311). -/
def handlerOf (s : State) (n : ExcNum) : Addr := byteAddress (s.wordAt (vectorAddress s n))

/-! ## Operands -/

/-- K : IMM5 zero-extended (30_encoding.md R110). -/
def constant (s : State) (imm5 : BitVec 5) : Word := BitVec.ofNat 32 (32 * s.k.toNat + imm5.toNat)

/-- The address a load reads, by the expression its meaning uses, and its destination. -/
def loadTarget (s : State) : Instr → Option (Addr × Reg)
  | .ld a b => some (wordAddress (s.x b + koff s), a)
  | .ldp p imm5 a => some (wordAddress (s.x p + poff s imm5), a)
  | .lds imm8 a => some (wordAddress (s.x sp + imm8.setWidth 32 * 4), a)
  | _ => none

/-- The address a store writes, by the expression its meaning uses, and how many bytes. -/
def storeTarget (s : State) : Instr → Option (Addr × Nat)
  | .st _ b => some (wordAddress (s.x b + koff s), 4)
  | .stp p imm5 _ => some (wordAddress (s.x p + poff s imm5), 4)
  | .sts imm8 _ => some (wordAddress (s.x sp + imm8.setWidth 32 * 4), 4)
  | .st8d a => some (byteLaneAddress (s.x a + koff s) ((s.x a).extractLsb' 0 2), 1)
  | .st8s a imm2 => some (byteLaneAddress (s.x a + koff s) imm2, 1)
  | .sts8s imm10 => some (byteLaneAddress (s.x sp + imm10.setWidth 32) (imm10.extractLsb' 0 2), 1)
  | .st16d a => some (halfLaneAddress (s.x a + koff s) ((s.x a).extractLsb' 1 1), 2)
  | .st16s a imm1 => some (halfLaneAddress (s.x a + koff s) imm1, 2)
  | .sts16s imm9 => some (halfLaneAddress (s.x sp + imm9.setWidth 32 * 2) (imm9.extractLsb' 0 1), 2)
  | _ => none

/-- The test of a skip (46_control_flow.md R263 to R267); none for any other instruction, and for SKPS with
condition 14 or 15. -/
def skipTest (s : State) : Instr → Option Bool
  | .skp0 a imm5 => some (!(s.x a).getLsbD imm5.toNat)
  | .skp1 a imm5 => some ((s.x a).getLsbD imm5.toNat)
  | .skprz a => some (s.x a == 0)
  | .skprnz a => some (s.x a != 0)
  | .skps imm4 => (condition imm4 s.flags).toOption
  | _ => none

/-- The word is a PFX (46_control_flow.md R262). -/
def isPfx (w : Half) : Bool :=
  match decodeWord w with
  | .ok (.pfx _) => true
  | _ => false

/-- The twelve instructions of 70_reset_and_hazards.md R381. -/
def forbiddenInSlot : Instr → Bool
  | .br _ | .bsr _ | .jmp _ | .call _ | .pfx _ | .skp0 _ _ | .skp1 _ _ | .skprz _ | .skprnz _ | .skps _
  | .tret _ | .trap _ => true
  | _ => false

/-- The visible registers that an instruction reads or writes in the window current when it starts; those of another
window are in `usedRegisters`. -/
def operandRegs (pfxd : Bool) : Instr → List Reg
  | .add a b | .sub a b | .cmp a b | .lsl a b | .lsr a b | .asr a b | .mov a b | .ext8d a b
  | .ext16d a b | .ld a b | .st a b => [a, b]
  | .and a b | .andn a b | .or a b | .xor a b => if pfxd then [a] else [a, b]
  | .addi a _ | .subi a _ | .cmpi a _ | .lsli a _ | .lsri a _ | .asri a _ | .movi a _ | .bgen a _
  | .skp0 a _ | .skp1 a _ | .movhi a _ | .ext8s a _ | .ext16s a _ | .not a | .neg a | .abs a | .sext8 a
  | .sext16 a | .rlc a | .rrc a | .swap a | .tret a | .skprz a | .wrctl a | .rdctl a | .skprnz a
  | .jmp a => [a]
  | .st8s a _ | .st16s a _ | .st8d a | .st16d a | .fill8 a | .fill16 a | .mstep a | .mul a => [a, r0]
  | .sts8s _ | .sts16s _ => [sp, r0]
  | .stp p _ a | .ldp p _ a => [p, a]
  | .sts _ a | .lds _ a => [sp, a]
  | .call a => [a, o7]
  | .bsr _ => [o7]
  | .usr0 _ _ | .usr1 _ | .usr2 _ | .usr3 _ | .usr4 _ | .save _ | .trap _ | .restore | .skps _ | .br _
  | .pfx _ => []

/-- The physical registers an instruction uses, in whatever window: SAVE those of the new %fp and %sp, TRAP the %o7
of the window below, and %o7 of the handler's window where SAVE or RESTORE enters its exception (47_system.md R280 to
R282; 60_exceptions.md R320). -/
def usedRegisters (s : State) : Instr → List Nat
  | .save _ => [phys (s.cwp - 1) 30, phys (s.cwp - 1) 14] ++
      if s.cwp = s.loLimit ∧ s.ie = true ∧ 1 < s.ipri then [phys (s.cwp - 1) 15] else []
  | .restore => if s.cwp = s.hiLimit ∧ s.ie = true ∧ 2 < s.ipri then [phys s.cwp 15] else []
  | .trap _ => [phys (s.cwp - 1) 15]
  | i => (operandRegs s.pfxd i).map (phys s.cwp)

/-! ## Reset -/

/-- All that the spec says of the state after a reset of a CPU with configuration `c` and memory `image`
(70_reset_and_hazards.md R360 to R368); the flags and the registers hold any value. -/
structure AfterReset (c : Config) (image : Memory) (s : State) : Prop where
  cfg : s.cfg = c
  regs : s.regs.length = c.regfile.size
  pc : s.pc = c.resetPc
  ie : s.ie = false
  ipri : s.ipri.toNat = 63
  cwp : s.cwp.toNat = c.regfile.size / 16 - 2
  istatus : s.istatus = 0
  loLimit : s.loLimit.toNat = 1
  hiLimit : s.hiLimit.toNat = c.regfile.size / 16 - 2
  reserved : s.wvalid.toNat < 2 ^ 10
  k : s.k = 0
  pfxd : s.pfxd = false
  ds : s.ds = none
  wstat : s.wstat = false
  mem : s.mem = image

/-! ## The invariant -/

/-- What holds in every state a run can reach: a legal configuration (00_scope.md R9); REGFILE_SIZE registers
(10_state.md R21); PC and DS even (R20, R29, R33); K zero but after PFX (R27); at most one of PFXD, DS and
WSTAT in force (R46); WVALID bits 15:10 zero (R42); memory in its canonical form. -/
structure State.Inv (s : State) : Prop where
  cfg : s.cfg.legal
  regs : s.regs.length = s.cfg.regfile.size
  pc : s.pc.toNat % 2 = 0
  ds : ∀ d, s.ds = some d → d.toNat % 2 = 0
  k : s.pfxd = false → s.k = 0
  afterPfx : s.pfxd = true → s.ds = none ∧ s.wstat = false
  afterWstat : s.wstat = true → s.ds = none
  wvalid : s.wvalid.toNat < 2 ^ 10
  mem : s.mem.wf

end Sys2Proof.Machine
end

