-- ==== Sys2Proof/Certificates/Slice0/Obligations.lean ====
section
/-! DEFINITION. The statements for the provers. Log entries named here are those of notes/assumptions. -/

section

open Sys2Proof Sys2Proof.Machine

/-! ## Encoding (30_encoding.md) -/

/-- Every well-formed instruction is what its own word decodes to (R92, R112). -/
def Obligations.DecodeInvertsEncode : Prop :=
  ∀ i : Instr, i.wellFormed = true → decodeWord (encode i) = .ok i

/-- Each word has one meaning: a word that decodes is the word of a well-formed instruction (R94). -/
def Obligations.EncodeInvertsDecode : Prop :=
  ∀ (w : Half) (i : Instr), decodeWord w = .ok i → i.wellFormed = true ∧ encode i = w

/-- The decoder follows the printed opcode map: w & mask = match exactly for the words that decode to that row's
instruction (R112). That the printed fixed-zero bits are part of the match is the model's choice (the spec's decision
D7, log 7). -/
def Obligations.DecodeFollowsOpcodeMap : Prop :=
  ∀ (w : Half) (i : Instr),
    w &&& i.row.mask = i.row.value ↔ ∃ j, decodeWord w = .ok j ∧ j.row = i.row

/-- Words of the spec's own examples, and their instructions. -/
def Obligations.SampleWordsDecode : Prop :=
  decodeWord 0x0013 = .ok (.add 19 0) ∧ decodeWord 0x7D03 = .ok (.swap 3) ∧
  decodeWord 0xB86B = .ok (.ldp 18 3 11) ∧ decodeWord 0xC23D = .ok (.sts 17 29) ∧
  decodeWord 0x600D = .ok (.sts8s 13) ∧ decodeWord 0x87DF = .ok (.br 0x7DF) ∧
  decodeWord 0x7817 = .ok (.save 23) ∧ decodeWord 0x7DA0 = .ok .restore ∧
  decodeWord 0x7EE3 = .ok (.skps 3) ∧ decodeWord 0x9803 = .ok (.pfx 3)

/-! ## Registers and memory -/

/-- The windows of two positions share the globals and the eight registers where they meet, and no other
(10_state.md R25, of the mapping D1, log 1). -/
def Obligations.WindowsOverlap : Prop :=
  ∀ (c d : BitVec 5) (i j : Reg), c ≠ d →
    (phys c i = phys d j ↔
      (i = j ∧ i.toNat < 8) ∨
      (c.toNat = d.toNat + 1 ∧ 8 ≤ i.toNat ∧ i.toNat < 16 ∧ j.toNat = i.toNat + 16) ∨
      (d.toNat = c.toNat + 1 ∧ 8 ≤ j.toNat ∧ j.toNat < 16 ∧ i.toNat = j.toNat + 16))

/-- Bytes of multi-byte values: little-endian reads (20_memory.md R61). -/
def Obligations.MemoryReadsLittleEndian : Prop :=
  ∀ (m : Memory) (a : Nat),
    (m.half a).toNat = 2 ^ 8 * (m.get (a + 1)).toNat + (m.get a).toNat ∧
    (m.word a).toNat = 2 ^ 24 * (m.get (a + 3)).toNat + 2 ^ 16 * (m.get (a + 2)).toNat +
      2 ^ 8 * (m.get (a + 1)).toNat + (m.get a).toNat

/-- A write of 1, 2 or 4 bytes sets byte k of the value at address a + k and changes no other byte
(20_memory.md R62). The memory is in its canonical form, the invariant of StepKeepsInvariant. -/
def Obligations.MemoryWriteThenRead : Prop :=
  ∀ (m : Memory) (a : Nat), m.wf →
    (∀ v : Byte, (m.put a v).get a = v ∧ ∀ b, b ≠ a → (m.put a v).get b = m.get b) ∧
    (∀ v : Half, (∀ k, k < 2 → (m.putHalf a v).get (a + k) = v.extractLsb' (8 * k) 8) ∧
      ∀ b, (b < a ∨ a + 2 ≤ b) → (m.putHalf a v).get b = m.get b) ∧
    (∀ v : Word, (∀ k, k < 4 → (m.putWord a v).get (a + k) = v.extractLsb' (8 * k) 8) ∧
      ∀ b, (b < a ∨ a + 4 ≤ b) → (m.putWord a v).get b = m.get b)

/-! ## Arithmetic (40_arithmetic.md) -/

/-- The flags as Table 7 defines them, on results computed with unlimited precision (R130, 10_state.md R40): N the
sign, V the true signed result out of range, Z a zero result, C carry-out or borrow. -/
def Obligations.FlagsAreExact : Prop :=
  ∀ a b : Word,
    (addFlags a b).n = decide ((a + b).toInt < 0) ∧
    (addFlags a b).v = decide (a.toInt + b.toInt < -2 ^ 31 ∨ 2 ^ 31 ≤ a.toInt + b.toInt) ∧
    (addFlags a b).z = decide ((a.toNat + b.toNat) % 2 ^ 32 = 0) ∧
    (addFlags a b).c = decide (2 ^ 32 ≤ a.toNat + b.toNat) ∧
    (subFlags a b).n = decide ((a - b).toInt < 0) ∧
    (subFlags a b).v = decide (a.toInt - b.toInt < -2 ^ 31 ∨ 2 ^ 31 ≤ a.toInt - b.toInt) ∧
    (subFlags a b).z = decide (a.toNat = b.toNat) ∧
    (subFlags a b).c = decide (a.toNat < b.toNat)

/-- ADD and ADDI (R131, R132). -/
def Obligations.AddResult : Prop :=
  ∀ (s : State) (a b : Reg) (imm5 : BitVec 5), s.wstat = false → s.visible a →
    (s.visible b → Completes (exec (.add a b) s) fun t =>
      ResultIs s t a (s.x a + s.x b) (addFlags (s.x a) (s.x b))) ∧
    Completes (exec (.addi a imm5) s) fun t =>
      ResultIs s t a (s.x a + constant s imm5) (addFlags (s.x a) (constant s imm5))

/-- SUB and SUBI (R133, R134). -/
def Obligations.SubtractResult : Prop :=
  ∀ (s : State) (a b : Reg) (imm5 : BitVec 5), s.wstat = false → s.visible a →
    (s.visible b → Completes (exec (.sub a b) s) fun t =>
      ResultIs s t a (s.x a - s.x b) (subFlags (s.x a) (s.x b))) ∧
    Completes (exec (.subi a imm5) s) fun t =>
      ResultIs s t a (s.x a - constant s imm5) (subFlags (s.x a) (constant s imm5))

/-- CMP and CMPI: the flags of the subtraction, and no register changes (R135, R136). -/
def Obligations.CompareResult : Prop :=
  ∀ (s : State) (a b : Reg) (imm5 : BitVec 5), s.wstat = false → s.visible a →
    (s.visible b → Completes (exec (.cmp a b) s) fun t => FlagsAre s t (subFlags (s.x a) (s.x b))) ∧
    Completes (exec (.cmpi a imm5) s) fun t => FlagsAre s t (subFlags (s.x a) (constant s imm5))

/-- NEG and ABS as signed arithmetic; the flags stay (R140, R137; ABS of the most negative number is the spec's
derivation, log 32). -/
def Obligations.NegateResult : Prop :=
  ∀ (s : State) (a : Reg), s.wstat = false → s.visible a →
    (Completes (exec (.neg a) s) fun t => ResultIs s t a (BitVec.ofInt 32 (-(s.x a).toInt)) s.flags) ∧
    Completes (exec (.abs a) s) fun t => ResultIs s t a (BitVec.ofNat 32 (s.x a).toInt.natAbs) s.flags

/-- MUL: the unsigned product of the low half-words, in full; MSTEP: one step of an unsigned multiply; both into %r0,
on a CPU that has them (R139, R138; log 15). The manual's passages disagree on the signs of MUL's operands: unsigned is
the resolution of 90_conflicts.md C4, the model's reading (DEDUCED, log 33). -/
def Obligations.MultiplyResult : Prop :=
  ∀ (s : State) (a : Reg), s.wstat = false → s.visible a → s.visible 0 →
    (s.cfg.hasMul = true → Completes (exec (.mul a) s) fun t =>
      ResultIs s t 0 (BitVec.ofNat 32 (((s.x 0).toNat % 2 ^ 16) * ((s.x a).toNat % 2 ^ 16))) s.flags) ∧
    (s.cfg.hasMstep = true → Completes (exec (.mstep a) s) fun t =>
      ResultIs s t 0
        (BitVec.ofNat 32 (2 * (s.x 0).toNat + if 2 ^ 31 ≤ (s.x 0).toNat then (s.x a).toNat else 0)) s.flags)

/-- The invariant of the MSTEP page's multiplication, as the spec derives it (R141): with m the multiplier and d the
multiplicand, after k steps %r0 = ((m mod 2^(16-k)) << (16+k)) + d * (m >> (16-k)). One more MSTEP advances k. -/
def Obligations.MstepAdvancesProduct : Prop :=
  ∀ (s t : State) (a : Reg) (m k : Nat), a ≠ 0 → m < 2 ^ 16 → (s.x a).toNat < 2 ^ 16 → k < 16 →
    (s.x 0).toNat = m % 2 ^ (16 - k) * 2 ^ (16 + k) + (s.x a).toNat * (m / 2 ^ (16 - k)) →
    exec (.mstep a) s = .next t →
    t.x a = s.x a ∧
    (t.x 0).toNat = m % 2 ^ (16 - (k + 1)) * 2 ^ (16 + (k + 1)) + (t.x a).toNat * (m / 2 ^ (16 - (k + 1)))

/-! ## Shifts and rotates (41_shift_rotate.md) -/

/-- LSL, LSR and ASR: the count is x[B] modulo 32; the flags stay (R150, R151, R153, R155). -/
def Obligations.ShiftByRegister : Prop :=
  ∀ (s : State) (a b : Reg), s.wstat = false → s.visible a → s.visible b →
    (Completes (exec (.lsl a b) s) fun t =>
      ResultIs s t a (BitVec.ofNat 32 ((s.x a).toNat * 2 ^ ((s.x b).toNat % 32))) s.flags) ∧
    (Completes (exec (.lsr a b) s) fun t =>
      ResultIs s t a (BitVec.ofNat 32 ((s.x a).toNat / 2 ^ ((s.x b).toNat % 32))) s.flags) ∧
    Completes (exec (.asr a b) s) fun t =>
      ResultIs s t a (BitVec.ofInt 32 ((s.x a).toInt / 2 ^ ((s.x b).toNat % 32))) s.flags

/-- LSLI, LSRI and ASRI: the count is IMM5, whatever K holds (D6, log 6; C20, log 33); the flags stay (R150, R152, R154,
R156). -/
def Obligations.ShiftByImmediate : Prop :=
  ∀ (s : State) (a : Reg) (imm5 : BitVec 5), s.wstat = false → s.visible a →
    (Completes (exec (.lsli a imm5) s) fun t =>
      ResultIs s t a (BitVec.ofNat 32 ((s.x a).toNat * 2 ^ imm5.toNat)) s.flags) ∧
    (Completes (exec (.lsri a imm5) s) fun t =>
      ResultIs s t a (BitVec.ofNat 32 ((s.x a).toNat / 2 ^ imm5.toNat)) s.flags) ∧
    Completes (exec (.asri a imm5) s) fun t =>
      ResultIs s t a (BitVec.ofInt 32 ((s.x a).toInt / 2 ^ imm5.toNat)) s.flags

/-- RLC and RRC rotate the 33 bits C : RA by one place; N, V and Z stay (R157, R158; C16, log 33). -/
def Obligations.RotateThroughCarry : Prop :=
  ∀ (s : State) (a : Reg), s.wstat = false → s.visible a →
    (Completes (exec (.rlc a) s) fun t =>
      ResultIs s t a (t.x a) { s.flags with c := t.flags.c } ∧
      BitVec.ofBool t.flags.c ++ t.x a = (BitVec.ofBool s.flags.c ++ s.x a).rotateLeft 1) ∧
    Completes (exec (.rrc a) s) fun t =>
      ResultIs s t a (t.x a) { s.flags with c := t.flags.c } ∧
      BitVec.ofBool t.flags.c ++ t.x a = (BitVec.ofBool s.flags.c ++ s.x a).rotateRight 1

/-! ## Moves and the prefix (42_move_prefix.md) -/

/-- MOV, MOVI, MOVHI and SWAP; the flags stay (R165, R166, R167, R169). -/
def Obligations.MoveResult : Prop :=
  ∀ (s : State) (a b : Reg) (imm5 : BitVec 5), s.wstat = false → s.visible a →
    (s.visible b → Completes (exec (.mov a b) s) fun t => ResultIs s t a (s.x b) s.flags) ∧
    (Completes (exec (.movi a imm5) s) fun t => ResultIs s t a (constant s imm5) s.flags) ∧
    (Completes (exec (.movhi a imm5) s) fun t =>
      ResultIs s t a
        (BitVec.ofNat 32 (2 ^ 16 * (32 * s.k.toNat + imm5.toNat) + (s.x a).toNat % 2 ^ 16)) s.flags) ∧
    Completes (exec (.swap a) s) fun t => ResultIs s t a ((s.x a).rotateLeft 16) s.flags

/-- PFX sets K and PFXD, advances PC and changes nothing else (R168). -/
def Obligations.PrefixResult : Prop :=
  ∀ (s : State) (imm11 : BitVec 11), s.wstat = false → s.ds = none → s.pfxd = false →
    Completes (exec (.pfx imm11) s) fun t =>
      KeepsData s t ∧ t.k = imm11 ∧ t.pfxd = true ∧ t.pc = s.pc + 2 ∧ t.ds = none ∧ t.wstat = false

/-- The prefix lasts for one instruction: K is zero and PFXD false after every instruction but PFX, and after PFX
they are its IMM11 and true (10_state.md R27, R32; through an exception entry by D8, log 8). -/
def Obligations.PrefixLastsOneInstruction : Prop :=
  ∀ (i : Instr) (s t : State), exec i s = .next t →
    (∃ imm11, i = .pfx imm11 ∧ t.k = imm11 ∧ t.pfxd = true) ∨
    ((∀ imm11, i ≠ .pfx imm11) ∧ t.k = 0 ∧ t.pfxd = false)

/-! ## Logical and bit instructions (43_logical_bit.md) -/

/-- AND, ANDN, OR, XOR: the second operand is K : IMM5 after a PFX, be K zero or not, and x[B] otherwise, read
before the write; N and Z are the result's, V and C stay (R180). -/
def Obligations.LogicalResult : Prop :=
  ∀ (s : State) (a b : Reg), s.wstat = false → s.visible a → (s.pfxd = false → s.visible b) →
    let y := if s.pfxd then constant s b else s.x b
    let flags := fun r : Word => { s.flags with n := decide (2 ^ 31 ≤ r.toNat), z := decide (r = 0) }
    (Completes (exec (.and a b) s) fun t => ResultIs s t a (s.x a &&& y) (flags (s.x a &&& y))) ∧
    (Completes (exec (.andn a b) s) fun t => ResultIs s t a (s.x a &&& ~~~y) (flags (s.x a &&& ~~~y))) ∧
    (Completes (exec (.or a b) s) fun t => ResultIs s t a (s.x a ||| y) (flags (s.x a ||| y))) ∧
    Completes (exec (.xor a b) s) fun t => ResultIs s t a (s.x a ^^^ y) (flags (s.x a ^^^ y))

/-- NOT inverts every bit and BGEN makes a power of two, whatever K holds; the flags stay (R185, R186). -/
def Obligations.InvertAndBitResult : Prop :=
  ∀ (s : State) (a : Reg) (imm5 : BitVec 5), s.wstat = false → s.visible a →
    (Completes (exec (.not a) s) fun t =>
      ResultIs s t a (BitVec.ofNat 32 (2 ^ 32 - 1 - (s.x a).toNat)) s.flags) ∧
    Completes (exec (.bgen a imm5) s) fun t => ResultIs s t a (BitVec.ofNat 32 (2 ^ imm5.toNat)) s.flags

/-! ## Extract, sign-extend, fill (44_extract_fill.md) -/

/-- EXT8d, EXT8s, EXT16d, EXT16s: the selected byte or half-word, zero-extended; the flags stay (R196 to R199). -/
def Obligations.ExtractResult : Prop :=
  ∀ (s : State) (a b : Reg) (imm2 : BitVec 2) (imm1 : BitVec 1), s.wstat = false → s.visible a → s.visible b →
    (Completes (exec (.ext8d a b) s) fun t =>
      ResultIs s t a (BitVec.ofNat 32 ((s.x a).toNat / 256 ^ ((s.x b).toNat % 4) % 256)) s.flags) ∧
    (Completes (exec (.ext8s a imm2) s) fun t =>
      ResultIs s t a (BitVec.ofNat 32 ((s.x a).toNat / 256 ^ imm2.toNat % 256)) s.flags) ∧
    (Completes (exec (.ext16d a b) s) fun t =>
      ResultIs s t a (BitVec.ofNat 32 ((s.x a).toNat / 65536 ^ ((s.x b).toNat / 2 % 2) % 65536)) s.flags) ∧
    Completes (exec (.ext16s a imm1) s) fun t =>
      ResultIs s t a (BitVec.ofNat 32 ((s.x a).toNat / 65536 ^ imm1.toNat % 65536)) s.flags

/-- SEXT8, SEXT16: the low byte or half-word as a signed number; FILL8, FILL16: copies of it in %r0; the flags stay
(R200, R201, R207, R208). -/
def Obligations.ExtendAndFillResult : Prop :=
  ∀ (s : State) (a : Reg), s.wstat = false → s.visible a → s.visible 0 →
    (Completes (exec (.sext8 a) s) fun t =>
      ResultIs s t a (BitVec.ofInt 32 (((s.x a).toNat : Int).bmod 256)) s.flags) ∧
    (Completes (exec (.sext16 a) s) fun t =>
      ResultIs s t a (BitVec.ofInt 32 (((s.x a).toNat : Int).bmod 65536)) s.flags) ∧
    (Completes (exec (.fill8 a) s) fun t =>
      ResultIs s t 0 (BitVec.ofNat 32 ((s.x a).toNat % 256 * 0x01010101)) s.flags) ∧
    Completes (exec (.fill16 a) s) fun t =>
      ResultIs s t 0 (BitVec.ofNat 32 ((s.x a).toNat % 65536 * 0x00010001)) s.flags

/-! ## Loads and stores (45_load_store.md) -/

/-- The address expressions of the loads and stores in exact arithmetic: base plus four times the signed K, plus four
times the signed K : IMM5 (C2, C19, log 33), modulo 2^32 (D5, log 5), with the low two bits dropped, and the lanes
within that word. -/
def Obligations.EffectiveAddress : Prop :=
  ∀ (s : State) (base ea : Word) (imm5 : BitVec 5) (n2 : BitVec 2) (n1 : BitVec 1),
    ((wordAddress (base + koff s)).toNat : Int) = (base.toNat + 4 * s.k.toInt) % 2 ^ 32 / 4 * 4 ∧
    ((wordAddress (base + poff s imm5)).toNat : Int) =
      (base.toNat + 4 * ((32 * s.k.toNat + imm5.toNat : Nat) : Int).bmod (2 ^ 16)) % 2 ^ 32 / 4 * 4 ∧
    (wordAddress ea).toNat = ea.toNat / 4 * 4 ∧
    (byteLaneAddress ea n2).toNat = ea.toNat / 4 * 4 + n2.toNat ∧
    (halfLaneAddress ea n1).toNat = ea.toNat / 4 * 4 + 2 * n1.toNat

/-- LD, LDP and LDS of plain memory: the aligned word into x[A], the base being read first (R216, R218, R220). -/
def Obligations.LoadResult : Prop :=
  ∀ (i : Instr) (s : State) (addr : Addr) (a : Reg), s.wstat = false → loadTarget s i = some (addr, a) →
    (∀ r ∈ operandRegs s.pfxd i, s.visible r) → s.readable addr 4 →
    Completes (exec i s) fun t => ResultIs s t a (s.mem.word addr.toNat) s.flags

/-- ST, STP and STS to RAM: x[A] to the four bytes of the aligned word, and nothing else (R217, R219, R221). -/
def Obligations.StoreWordResult : Prop :=
  ∀ (s : State) (a b p : Reg) (imm5 : BitVec 5) (imm8 : BitVec 8), s.wstat = false → s.mem.wf → s.visible a →
    (s.visible b → kindAt s.cfg (wordAddress (s.x b + koff s)) 4 = some .ram →
      Completes (exec (.st a b) s) fun t =>
        StoresAt s t (wordAddress (s.x b + koff s)).toNat 4 ∧
        t.mem.word (wordAddress (s.x b + koff s)).toNat = s.x a) ∧
    (s.visible p → kindAt s.cfg (wordAddress (s.x p + poff s imm5)) 4 = some .ram →
      Completes (exec (.stp p imm5 a) s) fun t =>
        StoresAt s t (wordAddress (s.x p + poff s imm5)).toNat 4 ∧
        t.mem.word (wordAddress (s.x p + poff s imm5)).toNat = s.x a) ∧
    (s.visible 14 → kindAt s.cfg (wordAddress (s.x 14 + imm8.setWidth 32 * 4)) 4 = some .ram →
      Completes (exec (.sts imm8 a) s) fun t =>
        StoresAt s t (wordAddress (s.x 14 + imm8.setWidth 32 * 4)).toNat 4 ∧
        t.mem.word (wordAddress (s.x 14 + imm8.setWidth 32 * 4)).toNat = s.x a)

/-- The six partial stores to RAM: the byte or half-word of %r0 in the same lane as the address, to that address, and
nothing else (20_memory.md R67; R222 to R227). That STS8s and STS16s with a misaligned %sp take the lane from their
immediate alone is the resolution of 90_conflicts.md C26, the model's reading (DEDUCED, log 33). -/
def Obligations.PartialStoreResult : Prop :=
  ∀ (s : State) (a : Reg) (imm2 : BitVec 2) (imm1 : BitVec 1) (imm10 : BitVec 10) (imm9 : BitVec 9),
    s.wstat = false → s.mem.wf → s.visible a → s.visible 0 →
    let byteStored := fun (i : Instr) (addr : Nat) (lane : Nat) => Completes (exec i s) fun t =>
      StoresAt s t addr 1 ∧ (t.byte addr).toNat = (s.x 0).toNat / 256 ^ lane % 256
    let halfStored := fun (i : Instr) (addr : Nat) (lane : Nat) => Completes (exec i s) fun t =>
      StoresAt s t addr 2 ∧ (t.mem.half addr).toNat = (s.x 0).toNat / 65536 ^ lane % 65536
    let d8 := byteLaneAddress (s.x a + koff s) ((s.x a).extractLsb' 0 2)
    let s8 := byteLaneAddress (s.x a + koff s) imm2
    let t8 := byteLaneAddress (s.x 14 + imm10.setWidth 32) (imm10.extractLsb' 0 2)
    let d16 := halfLaneAddress (s.x a + koff s) ((s.x a).extractLsb' 1 1)
    let s16 := halfLaneAddress (s.x a + koff s) imm1
    let t16 := halfLaneAddress (s.x 14 + imm9.setWidth 32 * 2) (imm9.extractLsb' 0 1)
    (kindAt s.cfg d8 1 = some .ram → byteStored (.st8d a) d8.toNat ((s.x a).toNat % 4)) ∧
    (kindAt s.cfg s8 1 = some .ram → byteStored (.st8s a imm2) s8.toNat imm2.toNat) ∧
    (s.visible 14 → kindAt s.cfg t8 1 = some .ram → byteStored (.sts8s imm10) t8.toNat (imm10.toNat % 4)) ∧
    (kindAt s.cfg d16 2 = some .ram → halfStored (.st16d a) d16.toNat ((s.x a).toNat / 2 % 2)) ∧
    (kindAt s.cfg s16 2 = some .ram → halfStored (.st16s a imm1) s16.toNat imm1.toNat) ∧
    (s.visible 14 → kindAt s.cfg t16 2 = some .ram → halfStored (.sts16s imm9) t16.toNat (imm9.toNat % 2))

/-- The model's choice (log 25; 20_memory.md R72, U14): a load from a peripheral register of `width` bits completes
with a value of that width, otherwise open; a store to a peripheral completes and changes no memory. -/
def Obligations.PeripheralAccess : Prop :=
  ∀ (i : Instr) (s : State) (addr : Addr) (width : Nat), s.wstat = false →
    (∀ r ∈ operandRegs s.pfxd i, s.visible r) →
    (∀ a, loadTarget s i = some (addr, a) → kindAt s.cfg addr 4 = some (.peripheral width) →
      Completes (exec i s) fun t =>
        (t.x a).toNat < 2 ^ width ∧ WritesReg s t a (t.x a) ∧ t.status = s.status ∧ EndsAt s t s.nextPc ∧
        KeepsSystem s t ∧ KeepsMemory s t ∧ t.free = s.free + 1) ∧
    (∀ n, storeTarget s i = some (addr, n) → kindAt s.cfg addr n = some (.peripheral width) →
      Completes (exec i s) fun t => StoresAt s t addr.toNat 0)

/-- Where the spec gives an access no outcome the model refuses (20_memory.md R69, U7; log 27): a load or store where
there is nothing, and a store to ROM. -/
def Obligations.AccessStops : Prop :=
  ∀ (i : Instr) (s : State) (addr : Addr), s.wstat = false → (∀ r ∈ operandRegs s.pfxd i, s.visible r) →
    (∀ a, loadTarget s i = some (addr, a) → kindAt s.cfg addr 4 = none → exec i s = .refused .absentAddress) ∧
    (∀ n, storeTarget s i = some (addr, n) → kindAt s.cfg addr n = none → exec i s = .refused .absentAddress) ∧
    (∀ n, storeTarget s i = some (addr, n) → kindAt s.cfg addr n = some .rom → exec i s = .refused .romStore)

/-! ## Program flow (46_control_flow.md) -/

/-- BR and JMP: the target pends, the slot instruction is next, nothing else changes (R245, R246, R248). That addresses
are taken modulo 2^33 is the model's choice (the spec's decision D3, log 3). -/
def Obligations.BranchDelayed : Prop :=
  ∀ (s : State) (a : Reg) (imm11 : BitVec 11), s.wstat = false → s.ds = none →
    (Completes (exec (.br imm11) s) fun t =>
      KeepsData s t ∧ Delayed s t (BitVec.ofInt 33 (s.pc.toNat + 2 * (imm11.toInt + 1)))) ∧
    (s.visible a → Completes (exec (.jmp a) s) fun t =>
      KeepsData s t ∧ Delayed s t (BitVec.ofNat 33 (2 * (s.x a).toNat)))

/-- BSR and CALL: the same, with the address after the slot, halved, in %o7; the target of CALL is read before %o7 is
written (R247, R249; D16, log 14). That the target and the return address are taken modulo 2^33 is the model's choice
(the spec's decision D3, log 3). -/
def Obligations.CallLinks : Prop :=
  ∀ (s : State) (a : Reg) (imm11 : BitVec 11), s.wstat = false → s.ds = none → s.visible 15 →
    let linked := fun t : State => WritesReg s t 15 (BitVec.ofNat 32 ((s.pc.toNat + 4) % 2 ^ 33 / 2)) ∧
      t.status = s.status ∧ KeepsSystem s t ∧ t.free = s.free ∧ KeepsMemory s t
    (Completes (exec (.bsr imm11) s) fun t =>
      linked t ∧ Delayed s t (BitVec.ofInt 33 (s.pc.toNat + 2 * (imm11.toInt + 1)))) ∧
    (s.visible a → Completes (exec (.call a) s) fun t =>
      linked t ∧ Delayed s t (BitVec.ofNat 33 (2 * (s.x a).toNat)))

/-- An instruction that may stand in a delay slot goes on at the pending target, or at the next address where none
pends, and nothing pends after it (10_state.md R31, R33, R46). SAVE and RESTORE, which may enter a window handler
instead, are the subject of other statements. -/
def Obligations.DelaySlotReachesTarget : Prop :=
  ∀ (i : Instr) (s t : State), forbiddenInSlot i = false → (∀ imm8, i ≠ .save imm8) → i ≠ .restore →
    exec i s = .next t →
    (∀ target, s.ds = some target → t.pc = target) ∧ (s.ds = none → t.pc = s.pc + 2) ∧ t.ds = none

/-- The twelve instructions stop in a delay slot (70_reset_and_hazards.md R381, U3; log 28). -/
def Obligations.ForbiddenInSlotStop : Prop :=
  ∀ (i : Instr) (s : State), forbiddenInSlot i = true → s.wstat = false → s.ds.isSome = true →
    exec i s = .refused .forbiddenInSlot

/-- A skip goes over the next instruction when its test holds, over a PFX and its instruction together, and to the
next instruction when it does not; nothing else changes (R262 to R267; the sums modulo 2^33, D3, log 3). The word at
PC + 2 is read whatever the test says: of a peripheral it is an open value (log 26), and where there is nothing the
skip is refused even if its test fails (U7; log 34). -/
def Obligations.SkipResult : Prop :=
  ∀ (i : Instr) (s : State) (c : Bool), s.wstat = false → s.ds = none →
    (∀ r ∈ operandRegs s.pfxd i, s.visible r) → skipTest s i = some c →
    let ahead := s.pc + 2
    let distance := fun w : Half => if c then (if isPfx w then 6 else 4) else 2
    (s.readable ahead 2 → Completes (exec i s) fun t =>
      KeepsData s t ∧ EndsAt s t (s.pc + distance (s.mem.half ahead.toNat))) ∧
    (s.present ahead 2 → Completes (exec i s) fun t =>
      KeepsData (s.afterRead ahead 2) t ∧ EndsAt s t (s.pc + distance (s.halfAt ahead))) ∧
    (kindAt s.cfg ahead 2 = none → exec i s = .refused .absentAddress)

/-- The fourteen conditions of SKPS: on any condition codes the test of column three of R268, and after a compare what
column four says it means (R268, 40_arithmetic.md R130). -/
def Obligations.ConditionMeaning : Prop :=
  (∀ f : Flags,
    condition 0 f = .ok (decide (f.c = true)) ∧ condition 1 f = .ok (decide (f.c = false)) ∧
    condition 2 f = .ok (decide (f.z = true)) ∧ condition 3 f = .ok (decide (f.z = false)) ∧
    condition 4 f = .ok (decide (f.n = true)) ∧ condition 5 f = .ok (decide (f.n = false)) ∧
    condition 6 f = .ok (decide (f.n = f.v)) ∧ condition 7 f = .ok (decide (f.n ≠ f.v)) ∧
    condition 8 f = .ok (decide (f.z = true ∨ f.n ≠ f.v)) ∧ condition 9 f = .ok (decide (f.z = false ∧ f.n = f.v)) ∧
    condition 10 f = .ok (decide (f.v = true)) ∧ condition 11 f = .ok (decide (f.v = false)) ∧
    condition 12 f = .ok (decide (f.c = true ∨ f.z = true)) ∧
    condition 13 f = .ok (decide (f.c = false ∧ f.z = false))) ∧
  ∀ (s t : State) (a b : Reg), exec (.cmp a b) s = .next t →
    condition 0 t.flags = .ok (decide ((s.x a).toNat < (s.x b).toNat)) ∧
    condition 1 t.flags = .ok (decide ((s.x b).toNat ≤ (s.x a).toNat)) ∧
    condition 2 t.flags = .ok (decide (s.x a = s.x b)) ∧
    condition 3 t.flags = .ok (decide (s.x a ≠ s.x b)) ∧
    condition 4 t.flags = .ok (decide ((s.x a - s.x b).toInt < 0)) ∧
    condition 5 t.flags = .ok (decide (0 ≤ (s.x a - s.x b).toInt)) ∧
    condition 6 t.flags = .ok (decide ((s.x b).toInt ≤ (s.x a).toInt)) ∧
    condition 7 t.flags = .ok (decide ((s.x a).toInt < (s.x b).toInt)) ∧
    condition 8 t.flags = .ok (decide ((s.x a).toInt ≤ (s.x b).toInt)) ∧
    condition 9 t.flags = .ok (decide ((s.x b).toInt < (s.x a).toInt)) ∧
    condition 10 t.flags = .ok (decide ((s.x a - s.x b).toInt ≠ (s.x a).toInt - (s.x b).toInt)) ∧
    condition 11 t.flags = .ok (decide ((s.x a - s.x b).toInt = (s.x a).toInt - (s.x b).toInt)) ∧
    condition 12 t.flags = .ok (decide ((s.x a).toNat ≤ (s.x b).toNat)) ∧
    condition 13 t.flags = .ok (decide ((s.x b).toNat < (s.x a).toNat))

/-! ## Windows, traps and control registers (47_system.md, 60_exceptions.md) -/

/-- TakeException (60 R320): STATUS saved in ISTATUS, CWP down by one if `dec`, IE 0, IPRI n, the return location
halved in the new window's %o7, PC at twice the entry of the vector table, no other register and no memory changed.
The model's choices: K, PFXD, DS and WSTAT are cleared (D8, log 8); VECBASE + 4n is taken modulo 2^33 (log 9); an
entry in a peripheral is an open value (log 26); where CWP would leave 0 (U10), %o7 lies outside the file (U12; both
log 29) or the vector table is absent (U7, log 27) there is no outcome. -/
def Obligations.ExceptionEntry : Prop :=
  ∀ (s : State) (n : ExcNum) (ret : Addr) (dec : Bool),
    let window := if dec then s.cwp - 1 else s.cwp
    let vector := vectorAddress s n
    vector.toNat = (s.cfg.vecBase.toNat + 4 * n.toNat) % 2 ^ 33 ∧
    (s.readable vector 4 → (handlerOf s n).toNat = 2 * (s.mem.word vector.toNat).toNat) ∧
    (∀ width, kindAt s.cfg vector 4 = some (.peripheral width) →
      ∃ entry, entry < 2 ^ width ∧ (handlerOf s n).toNat = 2 * entry) ∧
    (dec = true → s.cwp = 0 → takeException s n ret dec = .error .cwpBelowZero) ∧
    ((dec = true → s.cwp ≠ 0) →
      (s.regs.length ≤ phys window 15 → takeException s n ret dec = .error .outsideRegisterFile) ∧
      (phys window 15 < s.regs.length →
        (s.present vector 4 →
          ∃ t, takeException s n ret dec = .ok t ∧ Entered s t n ret window (handlerOf s n)) ∧
        (kindAt s.cfg vector 4 = none → takeException s n ret dec = .error .absentAddress)))

/-- SAVE and RESTORE where no window exception is processed: the limit not met, or IE = 0, or IPRI too low (R280, R281,
60 R317; the exception dropped by D15, log 13). -/
def Obligations.WindowMovesPlain : Prop :=
  ∀ (s : State) (imm8 : BitVec 8), s.wstat = false →
    (s.cwp ≠ 0 → s.visible 14 → ¬(s.cwp = s.loLimit ∧ s.ie = true ∧ 1 < s.ipri) →
      Completes (exec (.save imm8) s) fun t => Saved s t imm8) ∧
    (s.cwp ≠ 31 → ¬(s.cwp = s.hiLimit ∧ s.ie = true ∧ 2 < s.ipri) →
      Completes (exec .restore s) fun t => Restored s t)

/-- SAVE at LO_LIMIT: after the plain effect, exception 1 without a second decrement, returning to the next
instruction or, in a slot, to the branch target (R280, 60 R317, R320, R327; what the entry clears by D8, log 8);
refused where the vector table is absent (U7, log 27). -/
def Obligations.SaveUnderflow : Prop :=
  ∀ (s : State) (imm8 : BitVec 8), s.wstat = false → s.cwp ≠ 0 → s.visible 14 →
    s.cwp = s.loLimit → s.ie = true → 1 < s.ipri →
    (s.present (vectorAddress s 1) 4 → Completes (exec (.save imm8) s) fun t =>
      ∃ m, Saved s m imm8 ∧ Entered m t 1 s.nextPc (s.cwp - 1) (handlerOf s 1)) ∧
    (kindAt s.cfg (vectorAddress s 1) 4 = none → exec (.save imm8) s = .refused .absentAddress)

/-- RESTORE at HI_LIMIT: after the plain effect, exception 2, whose handler sees the old CWP (R281, 60 R317, R320,
R327; what the entry clears by D8, log 8); refused where the vector table is absent (U7, log 27). -/
def Obligations.RestoreOverflow : Prop :=
  ∀ s : State, s.wstat = false → s.cwp ≠ 31 → s.visible 15 →
    s.cwp = s.hiLimit → s.ie = true → 2 < s.ipri →
    (s.present (vectorAddress s 2) 4 → Completes (exec .restore s) fun t =>
      ∃ m, Restored s m ∧ Entered m t 2 s.nextPc s.cwp (handlerOf s 2)) ∧
    (kindAt s.cfg (vectorAddress s 2) 4 = none → exec .restore s = .refused .absentAddress)

/-- TRAP enters its handler whatever IE and IPRI are, with the next instruction as the return location (R282, 60
R320; what the entry clears by D8, log 8); refused where the vector table is absent (U7, log 27). -/
def Obligations.TrapEntry : Prop :=
  ∀ (s : State) (imm6 : ExcNum), s.wstat = false → s.ds = none → s.cwp ≠ 0 →
    phys (s.cwp - 1) 15 < s.regs.length →
    (s.present (vectorAddress s imm6) 4 → Completes (exec (.trap imm6) s) fun t =>
      Entered s t imm6 (s.pc + 2) (s.cwp - 1) (handlerOf s imm6)) ∧
    (kindAt s.cfg (vectorAddress s imm6) 4 = none → exec (.trap imm6) s = .refused .absentAddress)

/-- TRET: STATUS is ISTATUS, PC twice the register, and nothing else changes (R284). -/
def Obligations.TrapReturn : Prop :=
  ∀ (s : State) (a : Reg), s.wstat = false → s.ds = none → s.visible a →
    Completes (exec (.tret a) s) fun t =>
      t.status = s.istatus ∧ EndsAt s t (BitVec.ofNat 33 (2 * (s.x a).toNat)) ∧ t.regs = s.regs ∧
      KeepsSystem s t ∧ t.free = s.free ∧ KeepsMemory s t

/-- A handler that returns at once leaves no trace: after TRAP and TRET %o7 the program goes on after the TRAP with
its STATUS, all its visible registers and its memory (R282, R284, 60 R325, R327). -/
def Obligations.TrapThenReturn : Prop :=
  ∀ (s t : State) (imm6 : ExcNum), s.pc.toNat % 2 = 0 → exec (.trap imm6) s = .next t →
    Completes (exec (.tret 15) t) fun u =>
      u.status = s.status ∧ u.pc = s.pc + 2 ∧ (∀ r, u.x r = s.x r) ∧ KeepsMemory s u ∧
      u.wvalid = s.wvalid ∧ u.k = 0 ∧ u.ds = none

/-- RDCTL of STATUS, ISTATUS and WVALID, zero-extended (R295; the upper half by D12, log 12). -/
def Obligations.ReadControlResult : Prop :=
  ∀ (s : State) (a : Reg), s.wstat = false → s.visible a →
    (s.k = 0 → Completes (exec (.rdctl a) s) fun t => ResultIs s t a (s.status.setWidth 32) s.flags) ∧
    (s.k = 1 → Completes (exec (.rdctl a) s) fun t => ResultIs s t a (s.istatus.setWidth 32) s.flags) ∧
    (s.k = 2 → Completes (exec (.rdctl a) s) fun t => ResultIs s t a (s.wvalid.setWidth 32) s.flags)

/-- WRCTL to STATUS, ISTATUS and WVALID: the low half-word, effective at once, with NOP required after STATUS; WVALID
keeps bits 15:10 at 0 and, read-only, changes not at all (R296; D13, D14, D23, log 12, log 16). -/
def Obligations.WriteControlResult : Prop :=
  ∀ (s : State) (a : Reg), s.wstat = false → s.visible a →
    let rest := fun t : State => t.regs = s.regs ∧ t.pc = s.nextPc ∧ t.ds = none ∧ t.k = 0 ∧ t.pfxd = false ∧
      t.cfg = s.cfg ∧ t.irqs = s.irqs ∧ t.free = s.free ∧ KeepsMemory s t
    (s.k = 0 → Completes (exec (.wrctl a) s) fun t => rest t ∧ t.status = (s.x a).setWidth 16 ∧
      t.istatus = s.istatus ∧ t.wvalid = s.wvalid ∧ t.wstat = true) ∧
    (s.k = 1 → Completes (exec (.wrctl a) s) fun t => rest t ∧ t.istatus = (s.x a).setWidth 16 ∧
      t.status = s.status ∧ t.wvalid = s.wvalid ∧ t.wstat = false) ∧
    (s.k = 2 → Completes (exec (.wrctl a) s) fun t => rest t ∧ t.status = s.status ∧ t.istatus = s.istatus ∧
      t.wstat = false ∧
      t.wvalid.toNat = if s.cfg.wvalidWritable then (s.x a).toNat % 2 ^ 10 else s.wvalid.toNat)

/-- CLR_IE and SET_IE: any write clears or sets IE, the value is ignored and no other bit of STATUS changes; a read
gives an undefined result in register A, of which nothing is said, and changes nothing else (10_state.md R43,
R44). -/
def Obligations.InterruptEnableRegisters : Prop :=
  ∀ (s : State) (a : Reg), s.wstat = false → s.visible a →
    let written := fun (b : Bool) (t : State) => t.ie = b ∧ t.ipri = s.ipri ∧ t.cwp = s.cwp ∧ t.flags = s.flags ∧
      t.regs = s.regs ∧ EndsAt s t s.nextPc ∧ KeepsSystem s t ∧ t.free = s.free ∧ KeepsMemory s t
    (s.k = 8 → Completes (exec (.wrctl a) s) (written false)) ∧
    (s.k = 9 → Completes (exec (.wrctl a) s) (written true)) ∧
    (s.k = 8 ∨ s.k = 9 → Completes (exec (.rdctl a) s) fun t =>
      WritesReg s t a (t.x a) ∧ t.status = s.status ∧ EndsAt s t s.nextPc ∧ KeepsSystem s t ∧ KeepsMemory s t)

/-- After a WRCTL to STATUS nothing but NOP has a next state, and NOP has its own (70 R384, U8; the word 0x3000 alone
by D21, log 16). -/
def Obligations.NopAfterStatusWrite : Prop :=
  ∀ s : State, s.wstat = true →
    (∀ (i : Instr) (t : State), exec i s = .next t → encode i = 0x3000) ∧
    (s.visible 0 → Completes (exec (.mov 0 0) s) fun t => ResultIs s t 0 (s.x 0) s.flags)

/-! ## Where the spec gives no outcome (93_implementation_defined.md) -/

/-- USR0 to USR4 stop (47 R300 to R304, U13). -/
def Obligations.ReservedOpcodesStop : Prop :=
  ∀ (s : State) (a b : Reg),
    exec (.usr0 a b) s = .refused .reservedOpcode ∧ exec (.usr1 a) s = .refused .reservedOpcode ∧
    exec (.usr2 a) s = .refused .reservedOpcode ∧ exec (.usr3 a) s = .refused .reservedOpcode ∧
    exec (.usr4 a) s = .refused .reservedOpcode

/-- Forms without an outcome stop by name: conditions 14 and 15 (U4), the reserved control registers (U6), PFX after
PFX (U2), CWP leaving 0 or 31 (U10, U11), MUL and MSTEP on a CPU without them (D20), in a delay slot too where the
form may stand there. Log 15, 28, 29, 30. -/
def Obligations.UndefinedFormsStop : Prop :=
  ∀ (s : State) (a : Reg), s.wstat = false → s.visible a →
    (∀ imm4 : BitVec 4, s.ds = none → 14 ≤ imm4.toNat → exec (.skps imm4) s = .refused .undefinedCondition) ∧
    ((3 ≤ s.k.toNat ∧ s.k.toNat ≤ 7) ∨ 10 ≤ s.k.toNat →
      exec (.rdctl a) s = .refused .reservedControlRegister ∧
      exec (.wrctl a) s = .refused .reservedControlRegister) ∧
    (∀ imm11, s.ds = none → s.pfxd = true → exec (.pfx imm11) s = .refused .pfxAfterPfx) ∧
    (∀ imm8, s.cwp = 0 → exec (.save imm8) s = .refused .cwpBelowZero) ∧
    (∀ imm6, s.ds = none → s.cwp = 0 → exec (.trap imm6) s = .refused .cwpBelowZero) ∧
    (s.cwp = 31 → exec .restore s = .refused .cwpAboveMax) ∧
    (s.cfg.hasMul = false → exec (.mul a) s = .refused .notConfigured) ∧
    (s.cfg.hasMstep = false → exec (.mstep a) s = .refused .notConfigured)

/-- An instruction that completes has touched no register outside the register file, be it in its own window or in
the one that SAVE, TRAP and RESTORE move to or that a window exception is entered in (10_state.md R24, U12;
log 29). -/
def Obligations.InsideRegisterFile : Prop :=
  ∀ (i : Instr) (s t : State), exec i s = .next t → ∀ n ∈ usedRegisters s i, n < s.regs.length

/-! ## Who writes what -/

/-- IE, IPRI and CWP change by SAVE, RESTORE, TRAP, TRET and WRCTL only; the condition codes by the six arithmetic,
the four logical and the two rotate instructions, TRET and WRCTL only (47 R297, 10_state.md R40). -/
def Obligations.StatusWriters : Prop :=
  ∀ (i : Instr) (s t : State), exec i s = .next t →
    (t.ie ≠ s.ie ∨ t.ipri ≠ s.ipri ∨ t.cwp ≠ s.cwp →
      (∃ imm8, i = .save imm8) ∨ i = .restore ∨ (∃ imm6, i = .trap imm6) ∨ (∃ a, i = .tret a) ∨
      ∃ a, i = .wrctl a) ∧
    (t.flags ≠ s.flags →
      (∃ a b, i = .add a b ∨ i = .addi a b ∨ i = .sub a b ∨ i = .subi a b ∨ i = .cmp a b ∨ i = .cmpi a b ∨
        i = .and a b ∨ i = .andn a b ∨ i = .or a b ∨ i = .xor a b) ∨
      ∃ a, i = .rlc a ∨ i = .rrc a ∨ i = .tret a ∨ i = .wrctl a)

/-- ISTATUS changes by exception entry and WRCTL with K = 1 only, WVALID by WRCTL with K = 2 to a writable WVALID only;
no instruction changes the configuration or the inputs (10_state.md R41, R42, R47). -/
def Obligations.SystemRegisterWriters : Prop :=
  ∀ (i : Instr) (s t : State), exec i s = .next t →
    t.cfg = s.cfg ∧ t.irqs = s.irqs ∧
    (t.istatus ≠ s.istatus →
      (∃ imm8, i = .save imm8 ∧ t.pc = handlerOf s 1) ∨ (i = .restore ∧ t.pc = handlerOf s 2) ∨
      (∃ imm6, i = .trap imm6) ∨ (∃ a, i = .wrctl a ∧ s.k = 1)) ∧
    (t.wvalid ≠ s.wvalid → ∃ a, i = .wrctl a ∧ s.k = 2 ∧ s.cfg.wvalidWritable = true)

/-- A step changes a byte of memory only where the memory map has RAM, and only by a store to the bytes that the
store's own address expression gives (20_memory.md R60, R66, R69). -/
def Obligations.OnlyStoresChangeRam : Prop :=
  ∀ (i : Instr) (s t : State) (b : Nat), exec i s = .next t → t.byte b ≠ s.byte b →
    ∃ addr n, storeTarget s i = some (addr, n) ∧ addr.toNat ≤ b ∧ b < addr.toNat + n ∧
      ∃ region ∈ s.cfg.map, region.kind = .ram ∧ region.base ≤ b ∧ b < region.base + region.size

/-! ## The step (10_state.md R46) -/

/-- Where no interrupt is requested, or the request is masked by IE, by IPRI, by a pending prefix or by a pending
branch, the step is the meaning of the instruction that the word at PC decodes to, on the state whose input has been
sampled (R46 S1 to S3; 60 R315; D4, log 4). A word fetched from a peripheral is an open value, which the fetch uses up
(log 26). -/
def Obligations.StepRunsDecoded : Prop :=
  ∀ (s : State) (i : Instr), s.uninterrupted →
    (s.readable s.pc 2 → decodeWord (s.mem.half s.pc.toNat) = .ok i → step s = exec i s.sampled) ∧
    (s.present s.pc 2 → decodeWord (s.halfAt s.pc) = .ok i → step s = exec i (s.sampled.afterRead s.pc 2))

/-- With no interrupt to take, a word that is no instruction stops the step, and so does a fetch where there is
nothing (30_encoding.md R115, U1, log 30; 20_memory.md R69, U7, log 27). -/
def Obligations.UnfetchableStops : Prop :=
  ∀ s : State, s.uninterrupted →
    (∀ e, s.readable s.pc 2 → decodeWord (s.mem.half s.pc.toNat) = .error e → step s = .refused .unassignedWord) ∧
    (∀ e, s.present s.pc 2 → decodeWord (s.halfAt s.pc) = .error e → step s = .refused .unassignedWord) ∧
    (kindAt s.cfg s.pc 2 = none → step s = .refused .absentAddress)

/-- An interrupt that is requested, enabled and of higher priority than IPRI, neither between PFX and its instruction
nor between a branch and its slot, is entered in place of the instruction at PC (60 R315, R320; D4, log 4). The entry
clears WSTAT too, where the interrupt comes between a WRCTL to STATUS and its NOP: the model's choice (the spec's
decision D8, log 8). Where the vector table is absent the step is refused (U7, log 27). -/
def Obligations.InterruptEntry : Prop :=
  ∀ (s : State) (n : ExcNum), s.irqs.head? = some (some n) → s.ie = true → n.toNat < s.ipri.toNat →
    s.pfxd = false → s.ds = none → s.cwp ≠ 0 → phys (s.cwp - 1) 15 < s.regs.length →
    (s.present (vectorAddress s n) 4 →
      Completes (step s) fun t => Entered s.sampled t n s.pc (s.cwp - 1) (handlerOf s n)) ∧
    (kindAt s.cfg (vectorAddress s n) 4 = none → step s = .refused .absentAddress)

/-- Every step keeps the invariant of the machine: a legal configuration, the size of the register file, PC and the
pending target even, K zero but after PFX, WVALID's upper bits zero, memory in canonical form. -/
def Obligations.StepKeepsInvariant : Prop :=
  ∀ s t : State, s.Inv → step s = .next t → t.Inv

/-! ## Reset (70_reset_and_hazards.md) -/

/-- Reset and the invariant: after the reset of a CPU with configuration `c` and memory `image`, and after a reset in
mid-run, every part of the state to which the spec gives a value holds it, PC being RESET_PC and memory the image or
what it was (R360 to R363, R365, R367); for a legal configuration and an image in canonical form the invariant holds.
The model's choices: K, PFXD, DS and WSTAT are clear (the spec's decision D19, log 21), a reset in mid-run leaves the
coming inputs and the numbering of free values (log 35), and State.reset's configuration (log 19). -/
def Obligations.ResetState : Prop :=
  (∀ (c : Config) (image : Memory),
    AfterReset c image (State.resetWith c image) ∧ (c.legal → image.wf → (State.resetWith c image).Inv)) ∧
  (∀ s : State, AfterReset s.cfg s.mem s.applyReset ∧ s.applyReset.irqs = s.irqs ∧ s.applyReset.free = s.free ∧
    (s.Inv → s.applyReset.Inv)) ∧
  AfterReset Config.default [] State.reset ∧ State.reset.Inv

/-- STATUS after reset: IE = 0, IPRI = 63, CWP = REGFILE_SIZE / 16 - 2 (R360), so that STATUS[15:4] is 0x7E6, 0x7EE or
0x7FE and neither an interrupt nor a window exception is taken. The flags, which are any value, are left out. -/
def Obligations.ResetStatus : Prop :=
  ∀ (c : Config) (image : Memory) (irqs : List (Option ExcNum)),
    let s := { State.resetWith c image with irqs := irqs }
    s.ie = false ∧ s.ipri.toNat = 63 ∧ s.cwp.toNat = c.regfile.size / 16 - 2 ∧ s.cwp = s.hiLimit ∧
    (s.status.extractLsb' 4 12).toNat =
      (match c.regfile with | .r128 => 0x7E6 | .r256 => 0x7EE | .r512 => 0x7FE) ∧
    interruptTaken s = none ∧ ∀ atLimit e dec, windowException s atLimit e dec = .ok s

/-- ISTATUS and WVALID after reset (R361): ISTATUS = 0, LO_LIMIT = 1, HI_LIMIT = REGFILE_SIZE / 16 - 2, as words
0x00C1, 0x01C1 and 0x03C1; a read-only WVALID keeps what it holds. -/
def Obligations.ResetWindowLimits : Prop :=
  ∀ (c : Config) (image : Memory),
    let s := State.resetWith c image
    s.istatus = 0 ∧ s.loLimit = 1 ∧ s.hiLimit.toNat = c.regfile.size / 16 - 2 ∧
    s.wvalid = (match c.regfile with | .r128 => 0x00C1 | .r256 => 0x01C1 | .r512 => 0x03C1) ∧
    ∀ t u : State, t.cfg.wvalidWritable = false → step t = .next u → u.wvalid = t.wvalid

end
end

