-- ==== Sys2Proof/Laws/Bits.lean ====
section
/-! SUPPORT. Bit fields as numbers, and the fields of STATUS and WVALID. -/

namespace Sys2Proof

/-- Concatenation as arithmetic. -/
theorem toNat_append_add {n m : Nat} (x : BitVec n) (y : BitVec m) : (x ++ y).toNat = x.toNat * 2 ^ m + y.toNat := by
  rw [BitVec.toNat_append, ← Nat.shiftLeft_add_eq_or_of_lt y.isLt, Nat.shiftLeft_eq]

/-- A bit field as arithmetic. -/
theorem toNat_extractLsb'_div {n : Nat} (x : BitVec n) (s l : Nat) :
    (x.extractLsb' s l).toNat = x.toNat / 2 ^ s % 2 ^ l := by
  rw [BitVec.extractLsb'_toNat, Nat.shiftRight_eq_div_pow]

namespace Machine

@[simp] theorem statusIE_mkStatus (ie : Bool) (p : ExcNum) (c : BitVec 5) (f : BitVec 4) :
    statusIE (mkStatus ie p c f) = ie := by
  simp only [statusIE, mkStatus, BitVec.getLsbD_append]
  cases ie <;> simp

@[simp] theorem statusIPRI_mkStatus (ie : Bool) (p : ExcNum) (c : BitVec 5) (f : BitVec 4) :
    statusIPRI (mkStatus ie p c f) = p := by
  apply BitVec.eq_of_toNat_eq
  simp only [statusIPRI, mkStatus, toNat_extractLsb'_div, toNat_append_add]
  omega

@[simp] theorem statusCWP_mkStatus (ie : Bool) (p : ExcNum) (c : BitVec 5) (f : BitVec 4) :
    statusCWP (mkStatus ie p c f) = c := by
  apply BitVec.eq_of_toNat_eq
  simp only [statusCWP, mkStatus, toNat_extractLsb'_div, toNat_append_add]
  omega

@[simp] theorem statusNVZC_mkStatus (ie : Bool) (p : ExcNum) (c : BitVec 5) (f : BitVec 4) :
    statusNVZC (mkStatus ie p c f) = f := by
  apply BitVec.eq_of_toNat_eq
  simp only [statusNVZC, mkStatus, toNat_extractLsb'_div, toNat_append_add]
  omega

/-- The flags of an assembled STATUS are those of its low four bits. -/
theorem statusFlags_mkStatus (ie : Bool) (p : ExcNum) (c : BitVec 5) (f : BitVec 4) :
    statusFlags (mkStatus ie p c f) =
      { n := f.getLsbD 3, v := f.getLsbD 2, z := f.getLsbD 1, c := f.getLsbD 0 } := by
  simp only [statusFlags, mkStatus, BitVec.getLsbD_append]
  rfl

@[simp] theorem statusFlags_mkStatus_toBits (ie : Bool) (p : ExcNum) (c : BitVec 5) (f : Flags) :
    statusFlags (mkStatus ie p c f.toBits) = f := by
  rw [statusFlags_mkStatus]
  obtain ⟨n, v, z, c⟩ := f
  revert n v z c
  decide

@[simp] theorem statusFlags_mkStatus_nvzc (ie : Bool) (p : ExcNum) (c : BitVec 5) (v : Half) :
    statusFlags (mkStatus ie p c (statusNVZC v)) = statusFlags v := by
  rw [statusFlags_mkStatus]
  simp [statusNVZC, statusFlags]

/-- A STATUS value is made of its fields; there are no reserved bits (10_state.md R36). -/
@[simp] theorem mkStatus_fields (v : Half) :
    mkStatus (statusIE v) (statusIPRI v) (statusCWP v) (statusNVZC v) = v := by
  apply BitVec.eq_of_getLsbD_eq
  intro i hi
  simp only [mkStatus, statusIE, statusIPRI, statusCWP, statusNVZC, BitVec.getLsbD_append,
    BitVec.getLsbD_extractLsb']
  interval_cases i <;> simp

@[simp] theorem wvalidHi_mkWvalid (hi lo : BitVec 5) : wvalidHi (mkWvalid hi lo) = hi := by
  apply BitVec.eq_of_toNat_eq
  simp only [wvalidHi, mkWvalid, toNat_extractLsb'_div, toNat_append_add]
  omega

@[simp] theorem wvalidLo_mkWvalid (hi lo : BitVec 5) : wvalidLo (mkWvalid hi lo) = lo := by
  apply BitVec.eq_of_toNat_eq
  simp only [wvalidLo, mkWvalid, toNat_extractLsb'_div, toNat_append_add]
  omega

/-- A byte address goes through a register unchanged when it is even (10_state.md R30). -/
theorem byteAddress_codeAddress (a : Addr) (h : a.toNat % 2 = 0) : byteAddress (codeAddress a) = a := by
  apply BitVec.eq_of_toNat_eq
  simp only [byteAddress, codeAddress, toNat_extractLsb'_div, toNat_append_add]
  simp; omega

end Machine

end Sys2Proof
end

