-- ==== Sys2Proof/Laws/Memory.lean ====
section
/-! SUPPORT. Read after write, and the canonical form of memory. -/

namespace Sys2Proof.Machine

/-- A write leaves every other byte alone. -/
theorem Memory.get_put_other (m : Memory) {a b : Nat} (v : Byte) (h : b ≠ a) :
    (m.put a v).get b = m.get b := by
  induction m with
  | nil => by_cases hv : v = Memory.unlisted <;> simp [Memory.put, Memory.get, hv, h.symm]
  | cons c m ih =>
    unfold Memory.put
    split
    · split <;> simp [Memory.get, h.symm]
    · split
      · have hc : c.1 ≠ b := by omega
        split <;> simp [Memory.get, h.symm, hc]
      · simp [Memory.get, ih]

/-- An address below every listed one reads as an unlisted address does. -/
theorem Memory.get_of_below (m : Memory) (a : Nat) (h : ∀ c ∈ m, a < c.1) : m.get a = Memory.unlisted := by
  induction m with
  | nil => rfl
  | cons c m ih =>
    have hc : c.1 ≠ a := by have := h c (by simp); omega
    rw [Memory.get, if_neg hc]
    exact ih fun d hd => h d (by simp [hd])

/-- A write is read back, where the memory written to is in canonical form. -/
theorem Memory.get_put_same (m : Memory) (a : Nat) (v : Byte) (h : m.wf) : (m.put a v).get a = v := by
  induction m with
  | nil => by_cases hv : v = Memory.unlisted <;> simp [Memory.put, Memory.get, hv]
  | cons c m ih =>
    obtain ⟨hs, hb⟩ := h
    rw [List.pairwise_cons] at hs
    unfold Memory.put
    split
    · rename_i hlt
      split
      · rename_i hv
        rw [hv]
        exact Memory.get_of_below _ _ (by
          intro d hd
          rcases List.mem_cons.1 hd with rfl | hd
          · exact hlt
          · exact hlt.trans (hs.1 d hd))
      · simp [Memory.get]
    · split
      · rename_i heq
        split
        · rename_i hv
          rw [hv]
          exact Memory.get_of_below _ _ (by intro d hd; rw [heq]; exact hs.1 d hd)
        · simp [Memory.get]
      · rename_i hne
        have hc : c.1 ≠ a := fun e => hne e.symm
        rw [Memory.get, if_neg hc]
        exact ih ⟨hs.2, fun d hd => hb d (by simp [hd])⟩

/-- The addresses a write lists are the ones listed before and its own. -/
theorem Memory.mem_put {m : Memory} {a : Nat} {v : Byte} {c : Host.Cell} (h : c ∈ m.put a v) :
    c ∈ m ∨ (c = (a, v) ∧ v ≠ Memory.unlisted) := by
  induction m with
  | nil =>
    unfold Memory.put at h
    split at h
    · simp at h
    · exact .inr ⟨by simpa using h, by assumption⟩
  | cons d m ih =>
    unfold Memory.put at h
    split at h
    · split at h
      · exact .inl h
      · rcases List.mem_cons.1 h with h | h
        · exact .inr ⟨h, by assumption⟩
        · exact .inl h
    · split at h
      · split at h
        · exact .inl (by simp [h])
        · rcases List.mem_cons.1 h with h | h
          · exact .inr ⟨h, by assumption⟩
          · exact .inl (by simp [h])
      · rcases List.mem_cons.1 h with h | h
        · exact .inl (by simp [h])
        · rcases ih h with h | h
          · exact .inl (by simp [h])
          · exact .inr h

/-- A write keeps the canonical form. -/
theorem Memory.put_wf {m : Memory} {a : Nat} (v : Byte) (ha : a < 2 ^ 33) (h : m.wf) : (m.put a v).wf := by
  refine ⟨?_, fun c hc => ?_⟩
  · induction m with
    | nil => unfold Memory.put; split <;> simp
    | cons c m ih =>
      obtain ⟨hs, hb⟩ := h
      have hs' := List.pairwise_cons.1 hs
      unfold Memory.put
      split
      · rename_i hlt
        split
        · exact hs
        · refine List.pairwise_cons.2 ⟨fun d hd => ?_, hs⟩
          rcases List.mem_cons.1 hd with rfl | hd
          · exact hlt
          · exact hlt.trans (hs'.1 d hd)
      · split
        · rename_i heq
          split
          · exact hs'.2
          · exact List.pairwise_cons.2 ⟨fun d hd => by rw [heq]; exact hs'.1 d hd, hs'.2⟩
        · refine List.pairwise_cons.2 ⟨fun d hd => ?_, ih ⟨hs'.2, fun d hd => hb d (by simp [hd])⟩⟩
          rcases Memory.mem_put hd with hd | ⟨rfl, -⟩
          · exact hs'.1 d hd
          · show c.1 < a; omega
  · rcases Memory.mem_put hc with hc | ⟨rfl, hv⟩
    · exact h.2 c hc
    · exact ⟨ha, hv⟩

theorem Memory.putHalf_wf {m : Memory} {a : Nat} (v : Half) (ha : a + 2 ≤ 2 ^ 33) (h : m.wf) :
    (m.putHalf a v).wf :=
  Memory.put_wf _ (by omega) (Memory.put_wf _ (by omega) h)

theorem Memory.putWord_wf {m : Memory} {a : Nat} (v : Word) (ha : a + 4 ≤ 2 ^ 33) (h : m.wf) :
    (m.putWord a v).wf :=
  Memory.put_wf _ (by omega) (Memory.put_wf _ (by omega) (Memory.put_wf _ (by omega) (Memory.put_wf _ (by omega) h)))

/-- A half-word write leaves every byte outside it alone. -/
theorem Memory.get_putHalf_other (m : Memory) {a b : Nat} (v : Half) (h : b < a ∨ a + 2 ≤ b) :
    (m.putHalf a v).get b = m.get b := by
  rw [Memory.putHalf, Memory.get_put_other _ _ (by omega), Memory.get_put_other _ _ (by omega)]

/-- A word write leaves every byte outside it alone. -/
theorem Memory.get_putWord_other (m : Memory) {a b : Nat} (v : Word) (h : b < a ∨ a + 4 ≤ b) :
    (m.putWord a v).get b = m.get b := by
  rw [Memory.putWord, Memory.get_put_other _ _ (by omega), Memory.get_put_other _ _ (by omega),
    Memory.get_put_other _ _ (by omega), Memory.get_put_other _ _ (by omega)]

end Sys2Proof.Machine
end

