-- ==== Sys2Proof/Laws/State.lean ====
section
/-! SUPPORT. The fields of a state after each named update, one lemma a field, and what the accessors of
STATUS read after each. -/

namespace Sys2Proof.Machine

/-! ### setStatus -/

@[simp] theorem State.setStatus_cfg (s : State) (v : Half) : (s.setStatus v).cfg = s.cfg := rfl
@[simp] theorem State.setStatus_regs (s : State) (v : Half) : (s.setStatus v).regs = s.regs := rfl
@[simp] theorem State.setStatus_pc (s : State) (v : Half) : (s.setStatus v).pc = s.pc := rfl
@[simp] theorem State.setStatus_k (s : State) (v : Half) : (s.setStatus v).k = s.k := rfl
@[simp] theorem State.setStatus_pfxd (s : State) (v : Half) : (s.setStatus v).pfxd = s.pfxd := rfl
@[simp] theorem State.setStatus_ds (s : State) (v : Half) : (s.setStatus v).ds = s.ds := rfl
@[simp] theorem State.setStatus_wstat (s : State) (v : Half) : (s.setStatus v).wstat = s.wstat := rfl
@[simp] theorem State.setStatus_status (s : State) (v : Half) : (s.setStatus v).status = v := rfl
@[simp] theorem State.setStatus_istatus (s : State) (v : Half) : (s.setStatus v).istatus = s.istatus := rfl
@[simp] theorem State.setStatus_wvalid (s : State) (v : Half) : (s.setStatus v).wvalid = s.wvalid := rfl
@[simp] theorem State.setStatus_irqs (s : State) (v : Half) : (s.setStatus v).irqs = s.irqs := rfl
@[simp] theorem State.setStatus_free (s : State) (v : Half) : (s.setStatus v).free = s.free := rfl
@[simp] theorem State.setStatus_mem (s : State) (v : Half) : (s.setStatus v).mem = s.mem := rfl

/-! ### setFlags -/

@[simp] theorem State.setFlags_cfg (s : State) (f : Flags) : (s.setFlags f).cfg = s.cfg := rfl
@[simp] theorem State.setFlags_regs (s : State) (f : Flags) : (s.setFlags f).regs = s.regs := rfl
@[simp] theorem State.setFlags_pc (s : State) (f : Flags) : (s.setFlags f).pc = s.pc := rfl
@[simp] theorem State.setFlags_k (s : State) (f : Flags) : (s.setFlags f).k = s.k := rfl
@[simp] theorem State.setFlags_pfxd (s : State) (f : Flags) : (s.setFlags f).pfxd = s.pfxd := rfl
@[simp] theorem State.setFlags_ds (s : State) (f : Flags) : (s.setFlags f).ds = s.ds := rfl
@[simp] theorem State.setFlags_wstat (s : State) (f : Flags) : (s.setFlags f).wstat = s.wstat := rfl
@[simp] theorem State.setFlags_status (s : State) (f : Flags) : (s.setFlags f).status = mkStatus s.ie s.ipri s.cwp f.toBits := rfl
@[simp] theorem State.setFlags_istatus (s : State) (f : Flags) : (s.setFlags f).istatus = s.istatus := rfl
@[simp] theorem State.setFlags_wvalid (s : State) (f : Flags) : (s.setFlags f).wvalid = s.wvalid := rfl
@[simp] theorem State.setFlags_irqs (s : State) (f : Flags) : (s.setFlags f).irqs = s.irqs := rfl
@[simp] theorem State.setFlags_free (s : State) (f : Flags) : (s.setFlags f).free = s.free := rfl
@[simp] theorem State.setFlags_mem (s : State) (f : Flags) : (s.setFlags f).mem = s.mem := rfl

/-! ### setCwp -/

@[simp] theorem State.setCwp_cfg (s : State) (c : BitVec 5) : (s.setCwp c).cfg = s.cfg := rfl
@[simp] theorem State.setCwp_regs (s : State) (c : BitVec 5) : (s.setCwp c).regs = s.regs := rfl
@[simp] theorem State.setCwp_pc (s : State) (c : BitVec 5) : (s.setCwp c).pc = s.pc := rfl
@[simp] theorem State.setCwp_k (s : State) (c : BitVec 5) : (s.setCwp c).k = s.k := rfl
@[simp] theorem State.setCwp_pfxd (s : State) (c : BitVec 5) : (s.setCwp c).pfxd = s.pfxd := rfl
@[simp] theorem State.setCwp_ds (s : State) (c : BitVec 5) : (s.setCwp c).ds = s.ds := rfl
@[simp] theorem State.setCwp_wstat (s : State) (c : BitVec 5) : (s.setCwp c).wstat = s.wstat := rfl
@[simp] theorem State.setCwp_status (s : State) (c : BitVec 5) : (s.setCwp c).status = mkStatus s.ie s.ipri c (statusNVZC s.status) := rfl
@[simp] theorem State.setCwp_istatus (s : State) (c : BitVec 5) : (s.setCwp c).istatus = s.istatus := rfl
@[simp] theorem State.setCwp_wvalid (s : State) (c : BitVec 5) : (s.setCwp c).wvalid = s.wvalid := rfl
@[simp] theorem State.setCwp_irqs (s : State) (c : BitVec 5) : (s.setCwp c).irqs = s.irqs := rfl
@[simp] theorem State.setCwp_free (s : State) (c : BitVec 5) : (s.setCwp c).free = s.free := rfl
@[simp] theorem State.setCwp_mem (s : State) (c : BitVec 5) : (s.setCwp c).mem = s.mem := rfl

/-! ### setIe -/

@[simp] theorem State.setIe_cfg (s : State) (b : Bool) : (s.setIe b).cfg = s.cfg := rfl
@[simp] theorem State.setIe_regs (s : State) (b : Bool) : (s.setIe b).regs = s.regs := rfl
@[simp] theorem State.setIe_pc (s : State) (b : Bool) : (s.setIe b).pc = s.pc := rfl
@[simp] theorem State.setIe_k (s : State) (b : Bool) : (s.setIe b).k = s.k := rfl
@[simp] theorem State.setIe_pfxd (s : State) (b : Bool) : (s.setIe b).pfxd = s.pfxd := rfl
@[simp] theorem State.setIe_ds (s : State) (b : Bool) : (s.setIe b).ds = s.ds := rfl
@[simp] theorem State.setIe_wstat (s : State) (b : Bool) : (s.setIe b).wstat = s.wstat := rfl
@[simp] theorem State.setIe_status (s : State) (b : Bool) : (s.setIe b).status = mkStatus b s.ipri s.cwp (statusNVZC s.status) := rfl
@[simp] theorem State.setIe_istatus (s : State) (b : Bool) : (s.setIe b).istatus = s.istatus := rfl
@[simp] theorem State.setIe_wvalid (s : State) (b : Bool) : (s.setIe b).wvalid = s.wvalid := rfl
@[simp] theorem State.setIe_irqs (s : State) (b : Bool) : (s.setIe b).irqs = s.irqs := rfl
@[simp] theorem State.setIe_free (s : State) (b : Bool) : (s.setIe b).free = s.free := rfl
@[simp] theorem State.setIe_mem (s : State) (b : Bool) : (s.setIe b).mem = s.mem := rfl

/-! ### retire -/

@[simp] theorem State.retire_cfg (s : State) : s.retire.cfg = s.cfg := rfl
@[simp] theorem State.retire_regs (s : State) : s.retire.regs = s.regs := rfl
@[simp] theorem State.retire_pc (s : State) : s.retire.pc = s.nextPc := rfl
@[simp] theorem State.retire_k (s : State) : s.retire.k = 0 := rfl
@[simp] theorem State.retire_pfxd (s : State) : s.retire.pfxd = false := rfl
@[simp] theorem State.retire_ds (s : State) : s.retire.ds = none := rfl
@[simp] theorem State.retire_wstat (s : State) : s.retire.wstat = false := rfl
@[simp] theorem State.retire_status (s : State) : s.retire.status = s.status := rfl
@[simp] theorem State.retire_istatus (s : State) : s.retire.istatus = s.istatus := rfl
@[simp] theorem State.retire_wvalid (s : State) : s.retire.wvalid = s.wvalid := rfl
@[simp] theorem State.retire_irqs (s : State) : s.retire.irqs = s.irqs := rfl
@[simp] theorem State.retire_free (s : State) : s.retire.free = s.free := rfl
@[simp] theorem State.retire_mem (s : State) : s.retire.mem = s.mem := rfl

/-! ### retireTo -/

@[simp] theorem State.retireTo_cfg (s : State) (a : Addr) : (s.retireTo a).cfg = s.cfg := rfl
@[simp] theorem State.retireTo_regs (s : State) (a : Addr) : (s.retireTo a).regs = s.regs := rfl
@[simp] theorem State.retireTo_pc (s : State) (a : Addr) : (s.retireTo a).pc = a := rfl
@[simp] theorem State.retireTo_k (s : State) (a : Addr) : (s.retireTo a).k = 0 := rfl
@[simp] theorem State.retireTo_pfxd (s : State) (a : Addr) : (s.retireTo a).pfxd = false := rfl
@[simp] theorem State.retireTo_ds (s : State) (a : Addr) : (s.retireTo a).ds = none := rfl
@[simp] theorem State.retireTo_wstat (s : State) (a : Addr) : (s.retireTo a).wstat = false := rfl
@[simp] theorem State.retireTo_status (s : State) (a : Addr) : (s.retireTo a).status = s.status := rfl
@[simp] theorem State.retireTo_istatus (s : State) (a : Addr) : (s.retireTo a).istatus = s.istatus := rfl
@[simp] theorem State.retireTo_wvalid (s : State) (a : Addr) : (s.retireTo a).wvalid = s.wvalid := rfl
@[simp] theorem State.retireTo_irqs (s : State) (a : Addr) : (s.retireTo a).irqs = s.irqs := rfl
@[simp] theorem State.retireTo_free (s : State) (a : Addr) : (s.retireTo a).free = s.free := rfl
@[simp] theorem State.retireTo_mem (s : State) (a : Addr) : (s.retireTo a).mem = s.mem := rfl

/-! ### retireDelayed -/

@[simp] theorem State.retireDelayed_cfg (s : State) (a : Addr) : (s.retireDelayed a).cfg = s.cfg := rfl
@[simp] theorem State.retireDelayed_regs (s : State) (a : Addr) : (s.retireDelayed a).regs = s.regs := rfl
@[simp] theorem State.retireDelayed_pc (s : State) (a : Addr) : (s.retireDelayed a).pc = s.nextPc := rfl
@[simp] theorem State.retireDelayed_k (s : State) (a : Addr) : (s.retireDelayed a).k = 0 := rfl
@[simp] theorem State.retireDelayed_pfxd (s : State) (a : Addr) : (s.retireDelayed a).pfxd = false := rfl
@[simp] theorem State.retireDelayed_ds (s : State) (a : Addr) : (s.retireDelayed a).ds = some a := rfl
@[simp] theorem State.retireDelayed_wstat (s : State) (a : Addr) : (s.retireDelayed a).wstat = false := rfl
@[simp] theorem State.retireDelayed_status (s : State) (a : Addr) : (s.retireDelayed a).status = s.status := rfl
@[simp] theorem State.retireDelayed_istatus (s : State) (a : Addr) : (s.retireDelayed a).istatus = s.istatus := rfl
@[simp] theorem State.retireDelayed_wvalid (s : State) (a : Addr) : (s.retireDelayed a).wvalid = s.wvalid := rfl
@[simp] theorem State.retireDelayed_irqs (s : State) (a : Addr) : (s.retireDelayed a).irqs = s.irqs := rfl
@[simp] theorem State.retireDelayed_free (s : State) (a : Addr) : (s.retireDelayed a).free = s.free := rfl
@[simp] theorem State.retireDelayed_mem (s : State) (a : Addr) : (s.retireDelayed a).mem = s.mem := rfl

/-! ### sampled -/

@[simp] theorem State.sampled_cfg (s : State) : s.sampled.cfg = s.cfg := rfl
@[simp] theorem State.sampled_regs (s : State) : s.sampled.regs = s.regs := rfl
@[simp] theorem State.sampled_pc (s : State) : s.sampled.pc = s.pc := rfl
@[simp] theorem State.sampled_k (s : State) : s.sampled.k = s.k := rfl
@[simp] theorem State.sampled_pfxd (s : State) : s.sampled.pfxd = s.pfxd := rfl
@[simp] theorem State.sampled_ds (s : State) : s.sampled.ds = s.ds := rfl
@[simp] theorem State.sampled_wstat (s : State) : s.sampled.wstat = s.wstat := rfl
@[simp] theorem State.sampled_status (s : State) : s.sampled.status = s.status := rfl
@[simp] theorem State.sampled_istatus (s : State) : s.sampled.istatus = s.istatus := rfl
@[simp] theorem State.sampled_wvalid (s : State) : s.sampled.wvalid = s.wvalid := rfl
@[simp] theorem State.sampled_irqs (s : State) : s.sampled.irqs = s.irqs.tail := rfl
@[simp] theorem State.sampled_free (s : State) : s.sampled.free = s.free := rfl
@[simp] theorem State.sampled_mem (s : State) : s.sampled.mem = s.mem := rfl

/-! ### afterRead -/

@[simp] theorem State.afterRead_cfg (s : State) (a : Addr) (n : Nat) : (s.afterRead a n).cfg = s.cfg := rfl
@[simp] theorem State.afterRead_regs (s : State) (a : Addr) (n : Nat) : (s.afterRead a n).regs = s.regs := rfl
@[simp] theorem State.afterRead_pc (s : State) (a : Addr) (n : Nat) : (s.afterRead a n).pc = s.pc := rfl
@[simp] theorem State.afterRead_k (s : State) (a : Addr) (n : Nat) : (s.afterRead a n).k = s.k := rfl
@[simp] theorem State.afterRead_pfxd (s : State) (a : Addr) (n : Nat) : (s.afterRead a n).pfxd = s.pfxd := rfl
@[simp] theorem State.afterRead_ds (s : State) (a : Addr) (n : Nat) : (s.afterRead a n).ds = s.ds := rfl
@[simp] theorem State.afterRead_wstat (s : State) (a : Addr) (n : Nat) : (s.afterRead a n).wstat = s.wstat := rfl
@[simp] theorem State.afterRead_status (s : State) (a : Addr) (n : Nat) : (s.afterRead a n).status = s.status := rfl
@[simp] theorem State.afterRead_istatus (s : State) (a : Addr) (n : Nat) : (s.afterRead a n).istatus = s.istatus := rfl
@[simp] theorem State.afterRead_wvalid (s : State) (a : Addr) (n : Nat) : (s.afterRead a n).wvalid = s.wvalid := rfl
@[simp] theorem State.afterRead_irqs (s : State) (a : Addr) (n : Nat) : (s.afterRead a n).irqs = s.irqs := rfl
@[simp] theorem State.afterRead_free (s : State) (a : Addr) (n : Nat) : (s.afterRead a n).free = s.freeAfter a n := rfl
@[simp] theorem State.afterRead_mem (s : State) (a : Addr) (n : Nat) : (s.afterRead a n).mem = s.mem := rfl

/-! ### applyReset -/

@[simp] theorem State.applyReset_cfg (s : State) : s.applyReset.cfg = s.cfg := rfl
@[simp] theorem State.applyReset_regs (s : State) : s.applyReset.regs = List.replicate s.cfg.regfile.size 0 := rfl
@[simp] theorem State.applyReset_pc (s : State) : s.applyReset.pc = s.cfg.resetPc := rfl
@[simp] theorem State.applyReset_k (s : State) : s.applyReset.k = 0 := rfl
@[simp] theorem State.applyReset_pfxd (s : State) : s.applyReset.pfxd = false := rfl
@[simp] theorem State.applyReset_ds (s : State) : s.applyReset.ds = none := rfl
@[simp] theorem State.applyReset_wstat (s : State) : s.applyReset.wstat = false := rfl
@[simp] theorem State.applyReset_status (s : State) : s.applyReset.status = mkStatus false 63 s.cfg.regfile.hiReset 0 := rfl
@[simp] theorem State.applyReset_istatus (s : State) : s.applyReset.istatus = 0 := rfl
@[simp] theorem State.applyReset_wvalid (s : State) : s.applyReset.wvalid = mkWvalid s.cfg.regfile.hiReset 1 := rfl
@[simp] theorem State.applyReset_irqs (s : State) : s.applyReset.irqs = s.irqs := rfl
@[simp] theorem State.applyReset_free (s : State) : s.applyReset.free = s.free := rfl
@[simp] theorem State.applyReset_mem (s : State) : s.applyReset.mem = s.mem := rfl

/-! ### The accessors after an update that leaves STATUS alone -/

@[simp] theorem State.retire_ie (s : State) : s.retire.ie = s.ie := rfl
@[simp] theorem State.retire_ipri (s : State) : s.retire.ipri = s.ipri := rfl
@[simp] theorem State.retire_cwp (s : State) : s.retire.cwp = s.cwp := rfl
@[simp] theorem State.retire_flags (s : State) : s.retire.flags = s.flags := rfl
@[simp] theorem State.retire_hiLimit (s : State) : s.retire.hiLimit = s.hiLimit := rfl
@[simp] theorem State.retire_loLimit (s : State) : s.retire.loLimit = s.loLimit := rfl
@[simp] theorem State.retireTo_ie (s : State) (a : Addr) : (s.retireTo a).ie = s.ie := rfl
@[simp] theorem State.retireTo_ipri (s : State) (a : Addr) : (s.retireTo a).ipri = s.ipri := rfl
@[simp] theorem State.retireTo_cwp (s : State) (a : Addr) : (s.retireTo a).cwp = s.cwp := rfl
@[simp] theorem State.retireTo_flags (s : State) (a : Addr) : (s.retireTo a).flags = s.flags := rfl
@[simp] theorem State.retireTo_hiLimit (s : State) (a : Addr) : (s.retireTo a).hiLimit = s.hiLimit := rfl
@[simp] theorem State.retireTo_loLimit (s : State) (a : Addr) : (s.retireTo a).loLimit = s.loLimit := rfl
@[simp] theorem State.retireDelayed_ie (s : State) (a : Addr) : (s.retireDelayed a).ie = s.ie := rfl
@[simp] theorem State.retireDelayed_ipri (s : State) (a : Addr) : (s.retireDelayed a).ipri = s.ipri := rfl
@[simp] theorem State.retireDelayed_cwp (s : State) (a : Addr) : (s.retireDelayed a).cwp = s.cwp := rfl
@[simp] theorem State.retireDelayed_flags (s : State) (a : Addr) : (s.retireDelayed a).flags = s.flags := rfl
@[simp] theorem State.retireDelayed_hiLimit (s : State) (a : Addr) : (s.retireDelayed a).hiLimit = s.hiLimit := rfl
@[simp] theorem State.retireDelayed_loLimit (s : State) (a : Addr) : (s.retireDelayed a).loLimit = s.loLimit := rfl
@[simp] theorem State.sampled_ie (s : State) : s.sampled.ie = s.ie := rfl
@[simp] theorem State.sampled_ipri (s : State) : s.sampled.ipri = s.ipri := rfl
@[simp] theorem State.sampled_cwp (s : State) : s.sampled.cwp = s.cwp := rfl
@[simp] theorem State.sampled_flags (s : State) : s.sampled.flags = s.flags := rfl
@[simp] theorem State.sampled_hiLimit (s : State) : s.sampled.hiLimit = s.hiLimit := rfl
@[simp] theorem State.sampled_loLimit (s : State) : s.sampled.loLimit = s.loLimit := rfl
@[simp] theorem State.afterRead_ie (s : State) (a : Addr) (n : Nat) : (s.afterRead a n).ie = s.ie := rfl
@[simp] theorem State.afterRead_ipri (s : State) (a : Addr) (n : Nat) : (s.afterRead a n).ipri = s.ipri := rfl
@[simp] theorem State.afterRead_cwp (s : State) (a : Addr) (n : Nat) : (s.afterRead a n).cwp = s.cwp := rfl
@[simp] theorem State.afterRead_flags (s : State) (a : Addr) (n : Nat) : (s.afterRead a n).flags = s.flags := rfl
@[simp] theorem State.afterRead_hiLimit (s : State) (a : Addr) (n : Nat) : (s.afterRead a n).hiLimit = s.hiLimit := rfl
@[simp] theorem State.afterRead_loLimit (s : State) (a : Addr) (n : Nat) : (s.afterRead a n).loLimit = s.loLimit := rfl

end Sys2Proof.Machine
end

