-- ==== Sys2Proof/Laws/Ops.lean ====
section
/-! SUPPORT. For each shared operation, what it can do, said once: what it answers where it answers, and when it
does. Later proofs cite these and do not unfold the operations. -/

namespace Sys2Proof.Machine

/-! ## Sequencing of operations -/

@[simp] theorem except_ok_bind {ε α β : Type} (a : α) (f : α → Except ε β) : (Except.ok a >>= f) = f a := rfl
@[simp] theorem except_pure_bind {ε α β : Type} (a : α) (f : α → Except ε β) :
    ((pure a : Except ε α) >>= f) = f a := rfl
@[simp] theorem except_error_bind {ε α β : Type} (e : ε) (f : α → Except ε β) : (Except.error e >>= f) = .error e := rfl
@[simp] theorem except_pure {ε α : Type} (a : α) : (pure a : Except ε α) = .ok a := rfl

/-- A sequence of two operations answers when both do. -/
theorem except_bind_ok {ε α β : Type} {x : Except ε α} {f : α → Except ε β} {b : β} :
    (x >>= f) = .ok b ↔ ∃ a, x = .ok a ∧ f a = .ok b := by
  cases x <;> simp

/-- The outcome is a next state exactly when the operation answers it. -/
@[simp] theorem answer_eq_next {x : Except Refusal State} {t : State} : answer x = .next t ↔ x = .ok t := by
  cases x with
  | ok s => simp [answer]
  | error r => cases r <;> simp [answer]

@[simp] theorem answer_ok (t : State) : answer (.ok t) = .next t := rfl

@[simp] theorem requireNoWstat_eq_ok {s : State} {u : Unit} : requireNoWstat s = .ok u ↔ s.wstat = false := by
  unfold requireNoWstat; cases s.wstat <;> simp

@[simp] theorem requireNoSlot_eq_ok {s : State} {u : Unit} : requireNoSlot s = .ok u ↔ s.ds = none := by
  unfold requireNoSlot; cases s.ds <;> simp

/-- All an instruction that may stand in a delay slot can do. -/
theorem ordinary_eq_next {s t : State} {body : Except Refusal State} :
    ordinary s body = .next t ↔ s.wstat = false ∧ ∃ u, body = .ok u ∧ t = u.retire := by
  simp only [ordinary, answer_eq_next, except_bind_ok, requireNoWstat_eq_ok, except_pure, Except.ok.injEq]
  exact ⟨fun ⟨_, h, u, hu, e⟩ => ⟨h, u, hu, e.symm⟩, fun ⟨h, u, hu, e⟩ => ⟨(), h, u, hu, e.symm⟩⟩

/-- All an instruction that may not stand in a delay slot can do. -/
theorem outsideSlot_eq_next {s t : State} {body : Except Refusal State} :
    outsideSlot s body = .next t ↔ s.wstat = false ∧ s.ds = none ∧ body = .ok t := by
  simp [outsideSlot, except_bind_ok]

/-- Where its operation stops, the instruction is refused. -/
theorem ordinary_stops {s : State} {body : Except Refusal State} {r : Refusal} (hw : s.wstat = false)
    (h : body = .error r) : ordinary s body = .refused r := by
  simp [ordinary, requireNoWstat, hw, h, answer]

theorem outsideSlot_stops {s : State} {body : Except Refusal State} {r : Refusal} (hw : s.wstat = false)
    (hd : s.ds = none) (h : body = .error r) : outsideSlot s body = .refused r := by
  simp [outsideSlot, requireNoWstat, requireNoSlot, hw, hd, h, answer]

/-! ## Registers -/

/-- Distinct visible registers of one window are distinct physical registers (10_state.md R24). -/
theorem phys_inj {c : BitVec 5} {i j : Reg} : phys c i = phys c j ↔ i = j := by
  refine ⟨fun h => BitVec.eq_of_toNat_eq ?_, fun h => h ▸ rfl⟩
  simp only [phys] at h
  split at h <;> split at h <;> omega

/-- A register reads exactly where it lies inside the file. -/
theorem readReg_eq_ok {s : State} {i : Reg} {v : Word} : readReg s i = .ok v ↔ s.visible i ∧ v = s.x i := by
  simp only [readReg, State.visible, State.x, List.getD_eq_getElem?_getD]
  by_cases h : phys s.cwp i < s.regs.length
  · simp [h, eq_comm]
  · simp [h]

theorem readReg_visible {s : State} {i : Reg} (h : s.visible i) : readReg s i = .ok (s.x i) :=
  readReg_eq_ok.2 ⟨h, rfl⟩

/-- A register is written exactly where it lies inside the file. -/
theorem writeReg_eq_ok {s t : State} {i : Reg} {v : Word} :
    writeReg s i v = .ok t ↔ s.visible i ∧ t = { s with regs := s.regs.set (phys s.cwp i) v } := by
  simp only [writeReg, State.visible]
  by_cases h : phys s.cwp i < s.regs.length <;> simp [h, eq_comm]

theorem writeReg_visible {s : State} {i : Reg} {v : Word} (h : s.visible i) :
    writeReg s i v = .ok { s with regs := s.regs.set (phys s.cwp i) v } :=
  writeReg_eq_ok.2 ⟨h, rfl⟩

/-! ## Memory -/

/-- All a read can do: answer where anything is there, using up a free value if that is a peripheral. -/
theorem readBytes_eq_ok {α : Type} {s t : State} {a : Addr} {n : Nat} {value v : α} :
    readBytes s a n value = .ok (v, t) ↔ s.present a n ∧ v = value ∧ t = s.afterRead a n := by
  unfold readBytes State.present
  split <;> simp_all [@eq_comm _ v, @eq_comm _ t]

theorem readHalf_eq_ok {s t : State} {a : Addr} {v : Half} :
    readHalf s a = .ok (v, t) ↔ s.present a 2 ∧ v = s.halfAt a ∧ t = s.afterRead a 2 := readBytes_eq_ok

theorem readWord_eq_ok {s t : State} {a : Addr} {v : Word} :
    readWord s a = .ok (v, t) ↔ s.present a 4 ∧ v = s.wordAt a ∧ t = s.afterRead a 4 := readBytes_eq_ok

theorem readBytes_absent {α : Type} {s : State} {a : Addr} {n : Nat} {value : α} (h : kindAt s.cfg a n = none) :
    readBytes s a n value = .error .absentAddress := if_pos h

theorem State.readable.present {s : State} {a : Addr} {n : Nat} (h : s.readable a n) : s.present a n := by
  rcases h with h | h <;> simp [State.present, h]

/-- A read of plain memory gives what memory holds and uses up no free value. -/
theorem State.readable.freeAfter {s : State} {a : Addr} {n : Nat} (h : s.readable a n) :
    s.freeAfter a n = s.free := by
  rcases h with h | h <;> simp [State.freeAfter, h]

theorem State.readable.afterRead {s : State} {a : Addr} {n : Nat} (h : s.readable a n) : s.afterRead a n = s := by
  simp [State.afterRead, h.freeAfter]

theorem State.readable.wordAt {s : State} {a : Addr} (h : s.readable a 4) : s.wordAt a = s.mem.word a.toNat := by
  rcases h with h | h <;> simp [State.wordAt, h]

theorem State.readable.halfAt {s : State} {a : Addr} (h : s.readable a 2) : s.halfAt a = s.mem.half a.toNat := by
  rcases h with h | h <;> simp [State.halfAt, h]

/-- A peripheral presents a register of its width padded by zeros (20_memory.md R72). -/
theorem peripheralWord_lt (s : State) (width : Nat) : (peripheralWord s width).toNat < 2 ^ width := by
  simp only [peripheralWord, BitVec.toNat_setWidth]
  exact Nat.lt_of_le_of_lt (Nat.mod_le _ _) (Nat.mod_lt _ (Nat.two_pow_pos width))

theorem wordAt_peripheral {s : State} {a : Addr} {width : Nat} (h : kindAt s.cfg a 4 = some (.peripheral width)) :
    s.wordAt a = peripheralWord s width := by simp [State.wordAt, h]

theorem halfAt_peripheral {s : State} {a : Addr} {width : Nat} (h : kindAt s.cfg a 2 = some (.peripheral width)) :
    s.halfAt a = (peripheralWord s width).extractLsb' (8 * (a.toNat % 4)) 16 := by simp [State.halfAt, h]

theorem freeAfter_peripheral {s : State} {a : Addr} {n width : Nat}
    (h : kindAt s.cfg a n = some (.peripheral width)) : s.freeAfter a n = s.free + 1 := by
  simp [State.freeAfter, h]

/-- All a store can do: change RAM, or be delivered to a peripheral. -/
theorem storeMemory_eq_ok {s t : State} {a : Addr} {n : Nat} {write : Memory → Memory} :
    storeMemory s a n write = .ok t ↔
      (kindAt s.cfg a n = some .ram ∧ t = { s with mem := write s.mem }) ∨
      (∃ width, kindAt s.cfg a n = some (.peripheral width)) ∧ t = s := by
  unfold storeMemory
  rcases kindAt s.cfg a n with _ | _ | _ | w <;> simp [@eq_comm _ t]

theorem storeMemory_absent {s : State} {a : Addr} {n : Nat} {write : Memory → Memory} (h : kindAt s.cfg a n = none) :
    storeMemory s a n write = .error .absentAddress := by simp [storeMemory, h]

theorem storeMemory_rom {s : State} {a : Addr} {n : Nat} {write : Memory → Memory}
    (h : kindAt s.cfg a n = some .rom) : storeMemory s a n write = .error .romStore := by simp [storeMemory, h]

/-- Memory is somewhere inside the 33-bit space. -/
theorem kindAt_bound {c : Config} (hc : c.legal) {a : Addr} {n : Nat} {k : RegionKind} (h : kindAt c a n = some k) :
    a.toNat + n ≤ 2 ^ 33 := by
  unfold kindAt at h
  cases hf : c.map.find? (fun r => regionHolds r a.toNat n) with
  | none => simp [hf] at h
  | some r =>
    have hp := List.find?_some hf
    have hl := hc.2.2.1 r (List.mem_of_find?_eq_some hf)
    simp only [regionHolds, Bool.and_eq_true, decide_eq_true_eq] at hp
    obtain ⟨-, -, hb⟩ := hl
    omega

/-! ## Exceptions -/

theorem cwpDown_eq_ok {s : State} {c : BitVec 5} : cwpDown s = .ok c ↔ s.cwp ≠ 0 ∧ c = s.cwp - 1 := by
  unfold cwpDown; split <;> simp_all [@eq_comm _ c]

theorem cwpUp_eq_ok {s : State} {c : BitVec 5} : cwpUp s = .ok c ↔ s.cwp ≠ 31 ∧ c = s.cwp + 1 := by
  unfold cwpUp; split <;> simp_all [@eq_comm _ c]

/-- The window an exception runs in: one lower if `dec`, and there is one. -/
theorem handlerWindow_eq_ok {s : State} {dec : Bool} {c : BitVec 5} :
    handlerWindow s dec = .ok c ↔ (dec = true → s.cwp ≠ 0) ∧ c = if dec then s.cwp - 1 else s.cwp := by
  cases dec <;> simp [handlerWindow, cwpDown_eq_ok, @eq_comm _ c]

/-- All that taking an exception can do (60_exceptions.md R320), with `window` the new CWP. -/
theorem takeException_eq_ok {s t : State} {n : ExcNum} {ret : Addr} {dec : Bool} :
    takeException s n ret dec = .ok t ↔
      ∃ window, ((dec = true → s.cwp ≠ 0) ∧ window = if dec then s.cwp - 1 else s.cwp) ∧
        phys window 15 < s.regs.length ∧ s.present (vectorAddress s n) 4 ∧
        t = { s with
          istatus := s.status
          status := mkStatus false n window (statusNVZC s.status)
          regs := s.regs.set (phys window 15) (codeAddress ret)
          free := s.freeAfter (vectorAddress s n) 4
          pc := handlerOf s n, k := 0, pfxd := false, ds := none, wstat := false } := by
  simp only [takeException, except_bind_ok, handlerWindow_eq_ok, writeReg_eq_ok, State.visible, State.cwp,
    statusCWP_mkStatus, except_pure, Except.ok.injEq]
  constructor
  · rintro ⟨c, hc, u, ⟨hu, rfl⟩, ⟨e, w⟩, hr, rfl⟩
    obtain ⟨hp, rfl, rfl⟩ := readWord_eq_ok.1 hr
    exact ⟨c, hc, hu, hp, rfl⟩
  · rintro ⟨c, hc, hu, hp, rfl⟩
    exact ⟨c, hc, _, ⟨hu, rfl⟩, _, readWord_eq_ok.2 ⟨hp, rfl, rfl⟩, rfl⟩

/-- With a window to run in and its %o7 inside the file, an exception stops only for want of a vector table. -/
theorem takeException_absent {s : State} {n : ExcNum} {ret : Addr} {dec : Bool} (hc : dec = true → s.cwp ≠ 0)
    (hr : phys (if dec then s.cwp - 1 else s.cwp) 15 < s.regs.length)
    (hv : kindAt s.cfg (vectorAddress s n) 4 = none) : takeException s n ret dec = .error .absentAddress := by
  have hw := handlerWindow_eq_ok.2 ⟨hc, rfl⟩
  simp only [takeException, hw, except_ok_bind, writeReg, State.cwp, statusCWP_mkStatus] at hr ⊢
  rw [if_pos hr, except_ok_bind, readWord, readBytes_absent (by exact hv), except_error_bind]

/-- The state after an exception is as `Entered` says. -/
theorem takeException_entered {s t : State} {n : ExcNum} {ret : Addr} {dec : Bool}
    (h : takeException s n ret dec = .ok t) :
    Entered s t n ret (if dec then s.cwp - 1 else s.cwp) (handlerOf s n) := by
  obtain ⟨c, ⟨-, rfl⟩, hl, -, rfl⟩ := takeException_eq_ok.1 h
  constructor <;>
    simp_all [State.ie, State.ipri, State.cwp, State.flags, State.x, KeepsRegsBut, KeepsMemory, State.byte,
      List.getElem?_set]
  · intro m hm; simp [Ne.symm hm]
  · constructor <;> rfl

/-- All that the end of SAVE and RESTORE can do (60_exceptions.md R316, R317). -/
theorem windowException_eq_ok {s t : State} {e : ExcNum} {dec atLimit : Bool} :
    windowException s atLimit e dec = .ok t ↔
      ((atLimit = true ∧ s.ie = true ∧ e < s.ipri) ∧ takeException s e s.pc dec = .ok t) ∨
      (¬(atLimit = true ∧ s.ie = true ∧ e < s.ipri) ∧ t = s) := by
  unfold windowException internalException
  by_cases h : atLimit = true ∧ s.ie = true ∧ e < s.ipri
  · simp [h]
  · cases atLimit
    · simp [@eq_comm _ t]
    · have h' : ¬(s.ie = true ∧ e < s.ipri) := fun g => h ⟨rfl, g⟩
      rw [if_pos rfl, if_neg (by simpa using h')]
      simp only [true_and, h', false_and, not_false_iff, false_or, Except.ok.injEq, @eq_comm _ t]

/-- Where the window exception is processed, SAVE and RESTORE end as it ends. -/
theorem windowException_taken {s : State} {e : ExcNum} {dec atLimit : Bool}
    (h : atLimit = true ∧ s.ie = true ∧ e < s.ipri) : windowException s atLimit e dec = takeException s e s.pc dec := by
  simp [windowException, internalException, h.1, h.2.1, h.2.2]

/-- The interrupt test (60_exceptions.md R315). -/
theorem interruptTaken_eq_some {s : State} {n : ExcNum} :
    interruptTaken s = some n ↔ s.irq = some n ∧ s.ie = true ∧ n < s.ipri ∧ s.pfxd = false ∧ s.ds = none := by
  unfold interruptTaken
  rcases s.irq with _ | m
  · simp
  · by_cases h : m = n
    · subst h; simp [and_assoc]
    · simp [h]

/-- Where the request is masked, no interrupt is taken (60_exceptions.md R315). -/
theorem interruptTaken_eq_none {s : State} : interruptTaken s = none ↔ s.uninterrupted := by
  have hirq (n : ExcNum) : s.irq = some n ↔ s.irqs.head? = some (some n) := by
    simp [State.irq, Option.join_eq_some_iff]
  rw [Option.eq_none_iff_forall_ne_some]
  refine forall_congr' fun n => ?_
  rw [ne_eq, interruptTaken_eq_some, hirq]
  cases s.ie <;> cases s.pfxd <;> cases s.ds <;> simp [BitVec.lt_def]

end Sys2Proof.Machine
end

