-- ==== Sys2Proof/Laws/Forms.lean ====
section
/-! SUPPORT. The shapes of Machine/Forms.lean: what each answers where its operands are in the register file. -/

namespace Sys2Proof.Machine

/-- `s` after the common tail of an instruction that wrote v to x[a]. -/
abbrev afterWrite (s : State) (a : Reg) (v : Word) : State :=
  ({ s with regs := s.regs.set (phys s.cwp a) v } : State).retire

/-- The same with the condition codes f. -/
abbrev afterWriteFlags (s : State) (a : Reg) (v : Word) (f : Flags) : State :=
  (({ s with regs := s.regs.set (phys s.cwp a) v } : State).setFlags f).retire

theorem ordinary_ok {s u : State} {body : Except Refusal State} (hw : s.wstat = false) (h : body = .ok u) :
    ordinary s body = .next u.retire := ordinary_eq_next.2 ⟨hw, u, h, rfl⟩

theorem outsideSlot_ok {s t : State} {body : Except Refusal State} (hw : s.wstat = false) (hd : s.ds = none)
    (h : body = .ok t) : outsideSlot s body = .next t := outsideSlot_eq_next.2 ⟨hw, hd, h⟩

/-- One register set: it holds v, and no other register changed. -/
theorem writesReg_set {s : State} {a : Reg} (v : Word) (h : s.visible a) {t : State}
    (ht : t.regs = s.regs.set (phys s.cwp a) v) : WritesReg s t a v := by
  refine ⟨?_, ?_, fun m hm => ?_⟩
  · rw [ht, List.getElem?_set_self h]
  · rw [ht, List.length_set]
  · rw [ht, List.getElem?_set_ne (Ne.symm hm)]

theorem afterWrite_resultIs {s : State} {a : Reg} (v : Word) (h : s.visible a) :
    ResultIs s (afterWrite s a v) a v s.flags where
  reg := writesReg_set v h rfl
  flags := ⟨rfl, rfl, rfl, rfl⟩
  ends := ⟨rfl, rfl, rfl, rfl, rfl⟩
  system := ⟨rfl, rfl, rfl, rfl⟩
  free := rfl
  memory := fun _ => rfl

theorem setFlags_writesFlags (s : State) (f : Flags) : WritesFlags s (s.setFlags f) f := by
  refine ⟨?_, ?_, ?_, ?_⟩ <;> simp [State.flags, State.ie, State.ipri, State.cwp]

theorem afterWriteFlags_resultIs {s : State} {a : Reg} (v : Word) (f : Flags) (h : s.visible a) :
    ResultIs s (afterWriteFlags s a v f) a v f where
  reg := writesReg_set v h rfl
  flags := setFlags_writesFlags _ _
  ends := ⟨rfl, rfl, rfl, rfl, rfl⟩
  system := ⟨rfl, rfl, rfl, rfl⟩
  free := rfl
  memory := fun _ => rfl

theorem afterFlags_flagsAre (s : State) (f : Flags) : FlagsAre s (s.setFlags f).retire f where
  regs := rfl
  flags := setFlags_writesFlags _ _
  ends := ⟨rfl, rfl, rfl, rfl, rfl⟩
  system := ⟨rfl, rfl, rfl, rfl⟩
  free := rfl
  memory := fun _ => rfl

/-- The register written reads back in the same window. -/
theorem WritesReg.x {s t : State} {a : Reg} {v : Word} (h : WritesReg s t a v) (hc : t.cwp = s.cwp) : t.x a = v := by
  simp [State.x, hc, h.1]

/-! ## Forms -/

theorem updateReg_eq_next {s t : State} {a : Reg} {f : Word → Word} :
    updateReg s a f = .next t ↔ s.wstat = false ∧ s.visible a ∧ t = afterWrite s a (f (s.x a)) := by
  simp only [updateReg, ordinary_eq_next, except_bind_ok, readReg_eq_ok, writeReg_eq_ok]
  constructor
  · rintro ⟨hw, u, ⟨v, ⟨hv, rfl⟩, -, rfl⟩, rfl⟩; exact ⟨hw, hv, rfl⟩
  · rintro ⟨hw, hv, rfl⟩; exact ⟨hw, _, ⟨_, ⟨hv, rfl⟩, hv, rfl⟩, rfl⟩

theorem combineRegs_eq_next {s t : State} {a b : Reg} {f : Word → Word → Word} :
    combineRegs s a b f = .next t ↔
      s.wstat = false ∧ s.visible a ∧ s.visible b ∧ t = afterWrite s a (f (s.x a) (s.x b)) := by
  simp only [combineRegs, ordinary_eq_next, except_bind_ok, readReg_eq_ok, writeReg_eq_ok]
  constructor
  · rintro ⟨hw, u, ⟨v, ⟨hv, rfl⟩, y, ⟨hy, rfl⟩, -, rfl⟩, rfl⟩; exact ⟨hw, hv, hy, rfl⟩
  · rintro ⟨hw, hv, hy, rfl⟩; exact ⟨hw, _, ⟨_, ⟨hv, rfl⟩, _, ⟨hy, rfl⟩, hv, rfl⟩, rfl⟩

theorem accumulate_eq_next {s t : State} {a : Reg} {f : Word → Word → Word} :
    accumulate s a f = .next t ↔
      s.wstat = false ∧ s.visible 0 ∧ s.visible a ∧ t = afterWrite s 0 (f (s.x 0) (s.x a)) := by
  simp only [accumulate, ordinary_eq_next, except_bind_ok, readReg_eq_ok, writeReg_eq_ok, r0]
  constructor
  · rintro ⟨hw, u, ⟨v, ⟨hv, rfl⟩, y, ⟨hy, rfl⟩, -, rfl⟩, rfl⟩; exact ⟨hw, hv, hy, rfl⟩
  · rintro ⟨hw, hv, hy, rfl⟩; exact ⟨hw, _, ⟨_, ⟨hv, rfl⟩, _, ⟨hy, rfl⟩, hv, rfl⟩, rfl⟩

theorem addTo_eq_next {s t : State} {a : Reg} {operand : Except Refusal Word} :
    addTo s a operand = .next t ↔ s.wstat = false ∧ s.visible a ∧
      ∃ y, operand = .ok y ∧ t = afterWriteFlags s a (s.x a + y) (addFlags (s.x a) y) := by
  simp only [addTo, ordinary_eq_next, except_bind_ok, readReg_eq_ok, writeReg_eq_ok, except_pure, Except.ok.injEq]
  constructor
  · rintro ⟨hw, u, ⟨v, ⟨hv, rfl⟩, y, hy, w, ⟨-, rfl⟩, rfl⟩, rfl⟩; exact ⟨hw, hv, y, hy, rfl⟩
  · rintro ⟨hw, hv, y, hy, rfl⟩; exact ⟨hw, _, ⟨_, ⟨hv, rfl⟩, y, hy, _, ⟨hv, rfl⟩, rfl⟩, rfl⟩

theorem subtractFrom_eq_next {s t : State} {a : Reg} {operand : Except Refusal Word} :
    subtractFrom s a operand = .next t ↔ s.wstat = false ∧ s.visible a ∧
      ∃ y, operand = .ok y ∧ t = afterWriteFlags s a (s.x a - y) (subFlags (s.x a) y) := by
  simp only [subtractFrom, ordinary_eq_next, except_bind_ok, readReg_eq_ok, writeReg_eq_ok, except_pure,
    Except.ok.injEq]
  constructor
  · rintro ⟨hw, u, ⟨v, ⟨hv, rfl⟩, y, hy, w, ⟨-, rfl⟩, rfl⟩, rfl⟩; exact ⟨hw, hv, y, hy, rfl⟩
  · rintro ⟨hw, hv, y, hy, rfl⟩; exact ⟨hw, _, ⟨_, ⟨hv, rfl⟩, y, hy, _, ⟨hv, rfl⟩, rfl⟩, rfl⟩

theorem compareWith_eq_next {s t : State} {a : Reg} {operand : Except Refusal Word} :
    compareWith s a operand = .next t ↔ s.wstat = false ∧ s.visible a ∧
      ∃ y, operand = .ok y ∧ t = (s.setFlags (subFlags (s.x a) y)).retire := by
  simp only [compareWith, ordinary_eq_next, except_bind_ok, readReg_eq_ok, except_pure, Except.ok.injEq]
  constructor
  · rintro ⟨hw, u, ⟨v, ⟨hv, rfl⟩, y, hy, rfl⟩, rfl⟩; exact ⟨hw, hv, y, hy, rfl⟩
  · rintro ⟨hw, hv, y, hy, rfl⟩; exact ⟨hw, _, ⟨_, ⟨hv, rfl⟩, y, hy, rfl⟩, rfl⟩

/-- The second operand of the four logical instructions (43_logical_bit.md R180). -/
theorem logicOperand_eq_ok {s : State} {b : BitVec 5} {y : Word} :
    logicOperand s b = .ok y ↔
      (s.pfxd = true ∧ y = immediate s b) ∨ (s.pfxd = false ∧ s.visible b ∧ y = s.x b) := by
  unfold logicOperand
  cases s.pfxd <;> simp [readReg_eq_ok, @eq_comm _ y]

theorem logical_eq_next {s t : State} {a : Reg} {b : BitVec 5} {f : Word → Word → Word} :
    logical s a b f = .next t ↔ s.wstat = false ∧ s.visible a ∧
      ∃ y, logicOperand s b = .ok y ∧ t = afterWriteFlags s a (f (s.x a) y) (logicFlags s.flags (f (s.x a) y)) := by
  simp only [logical, ordinary_eq_next, except_bind_ok, readReg_eq_ok, writeReg_eq_ok, except_pure, Except.ok.injEq]
  constructor
  · rintro ⟨hw, u, ⟨v, ⟨hv, rfl⟩, y, hy, w, ⟨-, rfl⟩, rfl⟩, rfl⟩; exact ⟨hw, hv, y, hy, rfl⟩
  · rintro ⟨hw, hv, y, hy, rfl⟩; exact ⟨hw, _, ⟨_, ⟨hv, rfl⟩, y, hy, _, ⟨hv, rfl⟩, rfl⟩, rfl⟩

/-- A load from memory or from a peripheral. -/
theorem loadFrom_eq_next {s t : State} {a base : Reg} {offset : Word} :
    loadFrom s a base offset = .next t ↔ s.wstat = false ∧ s.visible base ∧ s.visible a ∧
      s.present (wordAddress (s.x base + offset)) 4 ∧
      t = afterWrite (s.afterRead (wordAddress (s.x base + offset)) 4) a
        (s.wordAt (wordAddress (s.x base + offset))) := by
  simp only [loadFrom, ordinary_eq_next, except_bind_ok, readReg_eq_ok]
  constructor
  · rintro ⟨hw, u, ⟨p, ⟨hp, rfl⟩, ⟨v, t'⟩, hl, hu⟩, rfl⟩
    obtain ⟨hr, rfl, rfl⟩ := readWord_eq_ok.1 hl
    obtain ⟨ha, rfl⟩ := writeReg_eq_ok.1 hu
    exact ⟨hw, hp, ha, hr, rfl⟩
  · rintro ⟨hw, hp, ha, hr, rfl⟩
    exact ⟨hw, _, ⟨_, ⟨hp, rfl⟩, _, readWord_eq_ok.2 ⟨hr, rfl, rfl⟩, writeReg_eq_ok.2 ⟨ha, rfl⟩⟩, rfl⟩

theorem loadFrom_absent {s : State} {a base : Reg} {offset : Word} (hw : s.wstat = false) (hb : s.visible base)
    (h : kindAt s.cfg (wordAddress (s.x base + offset)) 4 = none) :
    loadFrom s a base offset = .refused .absentAddress :=
  ordinary_stops hw (by rw [readReg_visible hb, except_ok_bind, readWord, readBytes_absent h]; rfl)

theorem storeTo_stops {s : State} {a base : Reg} {offset : Word} {r : Refusal} (hw : s.wstat = false)
    (hb : s.visible base) (ha : s.visible a)
    (h : storeWord s (wordAddress (s.x base + offset)) (s.x a) = .error r) : storeTo s a base offset = .refused r :=
  ordinary_stops hw (by simp only [readReg_visible hb, readReg_visible ha, except_ok_bind, h])

theorem storeByteLane_stops {s : State} {base : Reg} {offset : Word} {lane : Word → BitVec 2} {r : Refusal}
    (hw : s.wstat = false) (hb : s.visible base) (h0 : s.visible 0)
    (h : storeByte s (byteLaneAddress (s.x base + offset) (lane (s.x base))) (byteLane (s.x 0) (lane (s.x base))) =
      .error r) : storeByteLane s base offset lane = .refused r :=
  ordinary_stops hw (by simp only [r0, readReg_visible hb, readReg_visible h0, except_ok_bind, h])

theorem storeHalfLane_stops {s : State} {base : Reg} {offset : Word} {lane : Word → BitVec 1} {r : Refusal}
    (hw : s.wstat = false) (hb : s.visible base) (h0 : s.visible 0)
    (h : storeHalf s (halfLaneAddress (s.x base + offset) (lane (s.x base))) (halfLane (s.x 0) (lane (s.x base))) =
      .error r) : storeHalfLane s base offset lane = .refused r :=
  ordinary_stops hw (by simp only [r0, readReg_visible hb, readReg_visible h0, except_ok_bind, h])

theorem storeTo_eq_next {s t : State} {a base : Reg} {offset : Word} :
    storeTo s a base offset = .next t ↔ s.wstat = false ∧ s.visible base ∧ s.visible a ∧
      ∃ u, storeWord s (wordAddress (s.x base + offset)) (s.x a) = .ok u ∧ t = u.retire := by
  simp only [storeTo, ordinary_eq_next, except_bind_ok, readReg_eq_ok]
  constructor
  · rintro ⟨hw, u, ⟨p, ⟨hp, rfl⟩, v, ⟨hv, rfl⟩, hu⟩, rfl⟩; exact ⟨hw, hp, hv, u, hu, rfl⟩
  · rintro ⟨hw, hp, hv, u, hu, rfl⟩; exact ⟨hw, u, ⟨_, ⟨hp, rfl⟩, _, ⟨hv, rfl⟩, hu⟩, rfl⟩

theorem storeByteLane_eq_next {s t : State} {base : Reg} {offset : Word} {lane : Word → BitVec 2} :
    storeByteLane s base offset lane = .next t ↔ s.wstat = false ∧ s.visible base ∧ s.visible 0 ∧
      ∃ u, storeByte s (byteLaneAddress (s.x base + offset) (lane (s.x base))) (byteLane (s.x 0) (lane (s.x base)))
        = .ok u ∧ t = u.retire := by
  simp only [storeByteLane, ordinary_eq_next, except_bind_ok, readReg_eq_ok, r0]
  constructor
  · rintro ⟨hw, u, ⟨p, ⟨hp, rfl⟩, v, ⟨hv, rfl⟩, hu⟩, rfl⟩; exact ⟨hw, hp, hv, u, hu, rfl⟩
  · rintro ⟨hw, hp, hv, u, hu, rfl⟩; exact ⟨hw, u, ⟨_, ⟨hp, rfl⟩, _, ⟨hv, rfl⟩, hu⟩, rfl⟩

theorem storeHalfLane_eq_next {s t : State} {base : Reg} {offset : Word} {lane : Word → BitVec 1} :
    storeHalfLane s base offset lane = .next t ↔ s.wstat = false ∧ s.visible base ∧ s.visible 0 ∧
      ∃ u, storeHalf s (halfLaneAddress (s.x base + offset) (lane (s.x base))) (halfLane (s.x 0) (lane (s.x base)))
        = .ok u ∧ t = u.retire := by
  simp only [storeHalfLane, ordinary_eq_next, except_bind_ok, readReg_eq_ok, r0]
  constructor
  · rintro ⟨hw, u, ⟨p, ⟨hp, rfl⟩, v, ⟨hv, rfl⟩, hu⟩, rfl⟩; exact ⟨hw, hp, hv, u, hu, rfl⟩
  · rintro ⟨hw, hp, hv, u, hu, rfl⟩; exact ⟨hw, u, ⟨_, ⟨hp, rfl⟩, _, ⟨hv, rfl⟩, hu⟩, rfl⟩

theorem skipIf_eq_next {s t : State} {test : Except Refusal Bool} :
    skipIf s test = .next t ↔ s.wstat = false ∧ s.ds = none ∧ ∃ c, test = .ok c ∧ s.present (s.pc + 2) 2 ∧
      t = (s.afterRead (s.pc + 2) 2).retireTo
        (s.pc + if c then skipDistance (s.halfAt (s.pc + 2)) else 2) := by
  simp only [skipIf, outsideSlot_eq_next, except_bind_ok, except_pure, Except.ok.injEq]
  constructor
  · rintro ⟨hw, hd, c, hc, ⟨w, u⟩, hr, rfl⟩
    obtain ⟨hp, rfl, rfl⟩ := readHalf_eq_ok.1 hr
    exact ⟨hw, hd, c, hc, hp, rfl⟩
  · rintro ⟨hw, hd, c, hc, hp, rfl⟩
    exact ⟨hw, hd, c, hc, _, readHalf_eq_ok.2 ⟨hp, rfl, rfl⟩, rfl⟩

/-- A skip stops before an absent address whatever its test says (20_memory.md R66, U7; log 34). -/
theorem skipIf_absent {s : State} {test : Except Refusal Bool} {c : Bool} (hw : s.wstat = false) (hd : s.ds = none)
    (hc : test = .ok c) (h : kindAt s.cfg (s.pc + 2) 2 = none) : skipIf s test = .refused .absentAddress :=
  outsideSlot_stops hw hd (by rw [hc, except_ok_bind, readHalf, readBytes_absent h]; rfl)

theorem link_eq_ok {s t : State} :
    link s = .ok t ↔ s.visible 15 ∧ t = { s with regs := s.regs.set (phys s.cwp 15) (codeAddress (s.pc + 4)) } :=
  writeReg_eq_ok

/-- All SAVE can do (47_system.md R280). -/
theorem execSave_eq_next {s t : State} {imm8 : BitVec 8} :
    execSave imm8 s = .next t ↔ s.wstat = false ∧ s.cwp ≠ 0 ∧ (s.setCwp (s.cwp - 1)).visible 30 ∧
      (s.setCwp (s.cwp - 1)).visible 14 ∧
      windowException
        (afterWrite (s.setCwp (s.cwp - 1)) 14 ((s.setCwp (s.cwp - 1)).x 30 - imm8.setWidth 32 * 4))
        (s.cwp = s.loLimit) 1 false = .ok t := by
  simp only [execSave, answer_eq_next, except_bind_ok, requireNoWstat_eq_ok, cwpDown_eq_ok, readReg_eq_ok,
    writeReg_eq_ok, fp, sp]
  constructor
  · rintro ⟨-, hw, c, ⟨hc, rfl⟩, v, ⟨hv, rfl⟩, u, ⟨hu, rfl⟩, h⟩; exact ⟨hw, hc, hv, hu, h⟩
  · rintro ⟨hw, hc, hv, hu, h⟩; exact ⟨(), hw, _, ⟨hc, rfl⟩, _, ⟨hv, rfl⟩, _, ⟨hu, rfl⟩, h⟩

/-- All RESTORE can do (47_system.md R281). -/
theorem execRestore_eq_next {s t : State} :
    execRestore s = .next t ↔ s.wstat = false ∧ s.cwp ≠ 31 ∧
      windowException (s.setCwp (s.cwp + 1)).retire (s.cwp = s.hiLimit) 2 true = .ok t := by
  simp only [execRestore, answer_eq_next, except_bind_ok, requireNoWstat_eq_ok, cwpUp_eq_ok]
  constructor
  · rintro ⟨-, hw, c, ⟨hc, rfl⟩, h⟩; exact ⟨hw, hc, h⟩
  · rintro ⟨hw, hc, h⟩; exact ⟨(), hw, _, ⟨hc, rfl⟩, h⟩

/-- SAVE with a window to move to answers what its window exception answers (47_system.md R280). -/
theorem execSave_moved {s : State} {imm8 : BitVec 8} (hw : s.wstat = false) (hc : s.cwp ≠ 0)
    (h30 : (s.setCwp (s.cwp - 1)).visible 30) (h14 : (s.setCwp (s.cwp - 1)).visible 14) :
    execSave imm8 s = answer (windowException
      (afterWrite (s.setCwp (s.cwp - 1)) 14 ((s.setCwp (s.cwp - 1)).x 30 - imm8.setWidth 32 * 4))
      (s.cwp = s.loLimit) 1 false) := by
  have h := requireNoWstat_eq_ok (u := ()).2 hw
  simp only [execSave, h, except_ok_bind, cwpDown_eq_ok.2 ⟨hc, rfl⟩, fp, sp, readReg_visible h30, writeReg_visible h14]

/-- RESTORE with a window to move to answers what its window exception answers (47_system.md R281). -/
theorem execRestore_moved {s : State} (hw : s.wstat = false) (hc : s.cwp ≠ 31) :
    execRestore s = answer (windowException (s.setCwp (s.cwp + 1)).retire (s.cwp = s.hiLimit) 2 true) := by
  have h := requireNoWstat_eq_ok (u := ()).2 hw
  simp only [execRestore, h, except_ok_bind, cwpUp_eq_ok.2 ⟨hc, rfl⟩]

end Sys2Proof.Machine
end

