-- ==== Sys2Proof/Laws/Exec.lean ====
section
/-! SUPPORT. What each instruction can answer, in one place: if `exec i s = .next t` then `Effect s t i`. -/

namespace Sys2Proof.Machine

/-- A store of n bytes that has happened: to RAM, or delivered to a peripheral. -/
def Stored (s t : State) (addr : Addr) (n : Nat) (write : Memory → Memory) : Prop :=
  (kindAt s.cfg addr n = some .ram ∧ t = ({ s with mem := write s.mem } : State).retire) ∨
    ((∃ width, kindAt s.cfg addr n = some (.peripheral width)) ∧ t = s.retire)

/-- A load that has happened: from memory or from a peripheral. -/
def Loaded (s t : State) (a : Reg) (addr : Addr) : Prop :=
  s.present addr 4 ∧ t = afterWrite (s.afterRead addr 4) a (s.wordAt addr)

/-- A skip that has happened. -/
def Skipped (s t : State) (c : Bool) : Prop :=
  s.present (s.pc + 2) 2 ∧
    t = (s.afterRead (s.pc + 2) 2).retireTo (s.pc + if c then skipDistance (s.halfAt (s.pc + 2)) else 2)

/-- The state after the link register of BSR and CALL is written. -/
abbrev linked (s : State) : State := { s with regs := s.regs.set (phys s.cwp 15) (codeAddress (s.pc + 4)) }

/-- All that an instruction does when it has a next state, whatever else it needs in order to have one
(`exec_effect`). -/
def Effect (s t : State) : Instr → Prop
  | .add a b => t = afterWriteFlags s a (s.x a + s.x b) (addFlags (s.x a) (s.x b))
  | .addi a imm5 => t = afterWriteFlags s a (s.x a + immediate s imm5) (addFlags (s.x a) (immediate s imm5))
  | .sub a b => t = afterWriteFlags s a (s.x a - s.x b) (subFlags (s.x a) (s.x b))
  | .subi a imm5 => t = afterWriteFlags s a (s.x a - immediate s imm5) (subFlags (s.x a) (immediate s imm5))
  | .cmp a b => t = (s.setFlags (subFlags (s.x a) (s.x b))).retire
  | .cmpi a imm5 => t = (s.setFlags (subFlags (s.x a) (immediate s imm5))).retire
  | .lsl a b => t = afterWrite s a (s.x a <<< (shiftCount (s.x b)).toNat)
  | .lsli a imm5 => t = afterWrite s a (s.x a <<< imm5.toNat)
  | .lsr a b => t = afterWrite s a (s.x a >>> (shiftCount (s.x b)).toNat)
  | .lsri a imm5 => t = afterWrite s a (s.x a >>> imm5.toNat)
  | .asr a b => t = afterWrite s a ((s.x a).sshiftRight (shiftCount (s.x b)).toNat)
  | .asri a imm5 => t = afterWrite s a ((s.x a).sshiftRight imm5.toNat)
  | .mov a b => t = afterWrite s a (s.x b)
  | .movi a imm5 => t = afterWrite s a (immediate s imm5)
  | .and a b => ∃ y, logicOperand s b = .ok y ∧
      t = afterWriteFlags s a (s.x a &&& y) (logicFlags s.flags (s.x a &&& y))
  | .andn a b => ∃ y, logicOperand s b = .ok y ∧
      t = afterWriteFlags s a (s.x a &&& ~~~y) (logicFlags s.flags (s.x a &&& ~~~y))
  | .or a b => ∃ y, logicOperand s b = .ok y ∧
      t = afterWriteFlags s a (s.x a ||| y) (logicFlags s.flags (s.x a ||| y))
  | .xor a b => ∃ y, logicOperand s b = .ok y ∧
      t = afterWriteFlags s a (s.x a ^^^ y) (logicFlags s.flags (s.x a ^^^ y))
  | .bgen a imm5 => t = afterWrite s a ((1 : Word) <<< imm5.toNat)
  | .ext8d a b => t = afterWrite s a ((byteLane (s.x a) ((s.x b).extractLsb' 0 2)).setWidth 32)
  | .skp0 a imm5 => Skipped s t (!(s.x a).getLsbD imm5.toNat)
  | .skp1 a imm5 => Skipped s t ((s.x a).getLsbD imm5.toNat)
  | .ld a b => Loaded s t a (wordAddress (s.x b + koff s))
  | .st a b => Stored s t (wordAddress (s.x b + koff s)) 4
      (fun m => m.putWord (wordAddress (s.x b + koff s)).toNat (s.x a))
  | .sts8s imm10 =>
      let addr := byteLaneAddress (s.x 14 + imm10.setWidth 32) (imm10.extractLsb' 0 2)
      Stored s t addr 1 (fun m => m.put addr.toNat (byteLane (s.x 0) (imm10.extractLsb' 0 2)))
  | .sts16s imm9 =>
      let addr := halfLaneAddress (s.x 14 + imm9.setWidth 32 * 2) (imm9.extractLsb' 0 1)
      Stored s t addr 2 (fun m => m.putHalf addr.toNat (halfLane (s.x 0) (imm9.extractLsb' 0 1)))
  | .ext16d a b => t = afterWrite s a ((halfLane (s.x a) ((s.x b).extractLsb' 1 1)).setWidth 32)
  | .movhi a imm5 => t = afterWrite s a (imm16 s imm5 ++ halfLane (s.x a) 0)
  | .ext8s a imm2 => t = afterWrite s a ((byteLane (s.x a) imm2).setWidth 32)
  | .ext16s a imm1 => t = afterWrite s a ((halfLane (s.x a) imm1).setWidth 32)
  | .st8s a imm2 =>
      let addr := byteLaneAddress (s.x a + koff s) imm2
      Stored s t addr 1 (fun m => m.put addr.toNat (byteLane (s.x 0) imm2))
  | .st16s a imm1 =>
      let addr := halfLaneAddress (s.x a + koff s) imm1
      Stored s t addr 2 (fun m => m.putHalf addr.toNat (halfLane (s.x 0) imm1))
  | .save imm8 => s.cwp ≠ 0 ∧ (s.setCwp (s.cwp - 1)).visible 30 ∧ (s.setCwp (s.cwp - 1)).visible 14 ∧
      windowException
        (afterWrite (s.setCwp (s.cwp - 1)) 14 ((s.setCwp (s.cwp - 1)).x 30 - imm8.setWidth 32 * 4))
        (s.cwp = s.loLimit) 1 false = .ok t
  | .trap imm6 => takeException s imm6 (s.pc + 2) true = .ok t
  | .not a => t = afterWrite s a (~~~(s.x a))
  | .neg a => t = afterWrite s a (0 - s.x a)
  | .abs a => t = afterWrite s a (if (s.x a).msb then 0 - s.x a else s.x a)
  | .sext8 a => t = afterWrite s a (sext (byteLane (s.x a) 0))
  | .sext16 a => t = afterWrite s a (sext (halfLane (s.x a) 0))
  | .rlc a => t = afterWriteFlags s a (((s.x a).extractLsb' 0 31 : BitVec 31) ++ BitVec.ofBool s.flags.c)
      (carryFlag s.flags ((s.x a).getLsbD 31))
  | .rrc a => t = afterWriteFlags s a (BitVec.ofBool s.flags.c ++ ((s.x a).extractLsb' 1 31 : BitVec 31))
      (carryFlag s.flags ((s.x a).getLsbD 0))
  | .swap a => t = afterWrite s a (halfLane (s.x a) 0 ++ halfLane (s.x a) 1)
  | .restore => s.cwp ≠ 31 ∧
      windowException (s.setCwp (s.cwp + 1)).retire (s.cwp = s.hiLimit) 2 true = .ok t
  | .tret a => t = returnFromException s (byteAddress (s.x a))
  | .st8d a =>
      let addr := byteLaneAddress (s.x a + koff s) ((s.x a).extractLsb' 0 2)
      Stored s t addr 1 (fun m => m.put addr.toNat (byteLane (s.x 0) ((s.x a).extractLsb' 0 2)))
  | .st16d a =>
      let addr := halfLaneAddress (s.x a + koff s) ((s.x a).extractLsb' 1 1)
      Stored s t addr 2 (fun m => m.putHalf addr.toNat (halfLane (s.x 0) ((s.x a).extractLsb' 1 1)))
  | .fill8 a => t = afterWrite s 0
      (byteLane (s.x a) 0 ++ byteLane (s.x a) 0 ++ byteLane (s.x a) 0 ++ byteLane (s.x a) 0)
  | .fill16 a => t = afterWrite s 0 (halfLane (s.x a) 0 ++ halfLane (s.x a) 0)
  | .mstep a => s.cfg.hasMstep = true ∧
      t = afterWrite s 0 (if (s.x 0).msb then (s.x 0 <<< 1) + s.x a else s.x 0 <<< 1)
  | .mul a => s.cfg.hasMul = true ∧ t = afterWrite s 0 ((s.x 0 &&& 0xFFFF) * (s.x a &&& 0xFFFF))
  | .skprz a => Skipped s t (s.x a == 0)
  | .skps imm4 => ∃ c, condition imm4 s.flags = .ok c ∧ Skipped s t c
  | .wrctl a => ∃ u, writeControl s s.k ((s.x a).extractLsb' 0 16) = .ok u ∧
      t = { u.retire with wstat := decide (s.k = 0) }
  | .rdctl a => ∃ v u, readControl s s.k = .ok (v, u) ∧ t = afterWrite u a v
  | .skprnz a => Skipped s t (s.x a != 0)
  | .jmp a => t = s.retireDelayed (byteAddress (s.x a))
  | .call a => t = (linked s).retireDelayed (byteAddress (s.x a))
  | .br imm11 => t = s.retireDelayed (branchTarget s imm11)
  | .bsr imm11 => t = (linked s).retireDelayed (branchTarget s imm11)
  | .pfx imm11 => s.pfxd = false ∧ t = { s.retire with k := imm11, pfxd := true }
  | .stp p imm5 a => Stored s t (wordAddress (s.x p + poff s imm5)) 4
      (fun m => m.putWord (wordAddress (s.x p + poff s imm5)).toNat (s.x a))
  | .ldp p imm5 a => Loaded s t a (wordAddress (s.x p + poff s imm5))
  | .sts imm8 a => Stored s t (wordAddress (s.x 14 + imm8.setWidth 32 * 4)) 4
      (fun m => m.putWord (wordAddress (s.x 14 + imm8.setWidth 32 * 4)).toNat (s.x a))
  | .lds imm8 a => Loaded s t a (wordAddress (s.x 14 + imm8.setWidth 32 * 4))
  | .usr0 _ _ | .usr1 _ | .usr2 _ | .usr3 _ | .usr4 _ => False

theorem readControl_eq_ok {s u : State} {k : BitVec 11} {v : Word} (h : readControl s k = .ok (v, u)) :
    u = s ∨ u = { s with free := s.free + 1 } := by
  unfold readControl at h
  split at h <;> simp_all

theorem writeControl_eq_ok {s u : State} {k : BitVec 11} {v : Half} (h : writeControl s k v = .ok u) :
    (k = 0 ∧ u = s.setStatus v) ∨ (k = 1 ∧ u = { s with istatus := v }) ∨
    (k = 2 ∧ u = if s.cfg.wvalidWritable then { s with wvalid := v &&& 0x03FF } else s) ∨
    (k = 8 ∧ u = s.setIe false) ∨ (k = 9 ∧ u = s.setIe true) := by
  unfold writeControl at h
  split at h
  case h_1 hk => exact .inl ⟨BitVec.eq_of_toNat_eq hk, (Except.ok.inj h).symm⟩
  case h_2 hk => exact .inr (.inl ⟨BitVec.eq_of_toNat_eq hk, (Except.ok.inj h).symm⟩)
  case h_3 hk => exact .inr (.inr (.inl ⟨BitVec.eq_of_toNat_eq hk, (Except.ok.inj h).symm⟩))
  case h_4 hk => exact .inr (.inr (.inr (.inl ⟨BitVec.eq_of_toNat_eq hk, (Except.ok.inj h).symm⟩)))
  case h_5 hk => exact .inr (.inr (.inr (.inr ⟨BitVec.eq_of_toNat_eq hk, (Except.ok.inj h).symm⟩)))
  case h_6 => cases h

theorem loadFrom_loaded {s t : State} {a b : Reg} {offset : Word} (h : loadFrom s a b offset = .next t) :
    Loaded s t a (wordAddress (s.x b + offset)) := (loadFrom_eq_next.1 h).2.2.2

theorem storeMemory_stored {s u : State} {addr : Addr} {n : Nat} {write : Memory → Memory}
    (h : storeMemory s addr n write = .ok u) : Stored s u.retire addr n write := by
  rcases storeMemory_eq_ok.1 h with ⟨hk, rfl⟩ | ⟨hk, rfl⟩
  · exact .inl ⟨hk, rfl⟩
  · exact .inr ⟨hk, rfl⟩

theorem storeTo_stored {s t : State} {a b : Reg} {offset : Word} (h : storeTo s a b offset = .next t) :
    Stored s t (wordAddress (s.x b + offset)) 4
      (fun m => m.putWord (wordAddress (s.x b + offset)).toNat (s.x a)) := by
  obtain ⟨-, -, -, u, hu, rfl⟩ := storeTo_eq_next.1 h
  exact storeMemory_stored hu

theorem storeByteLane_stored {s t : State} {b : Reg} {offset : Word} {lane : Word → BitVec 2}
    (h : storeByteLane s b offset lane = .next t) :
    Stored s t (byteLaneAddress (s.x b + offset) (lane (s.x b))) 1
      (fun m => m.put (byteLaneAddress (s.x b + offset) (lane (s.x b))).toNat
        (byteLane (s.x 0) (lane (s.x b)))) := by
  obtain ⟨-, -, -, u, hu, rfl⟩ := storeByteLane_eq_next.1 h
  exact storeMemory_stored hu

theorem storeHalfLane_stored {s t : State} {b : Reg} {offset : Word} {lane : Word → BitVec 1}
    (h : storeHalfLane s b offset lane = .next t) :
    Stored s t (halfLaneAddress (s.x b + offset) (lane (s.x b))) 2
      (fun m => m.putHalf (halfLaneAddress (s.x b + offset) (lane (s.x b))).toNat
        (halfLane (s.x 0) (lane (s.x b)))) := by
  obtain ⟨-, -, -, u, hu, rfl⟩ := storeHalfLane_eq_next.1 h
  exact storeMemory_stored hu

theorem skipIf_register {s t : State} {a : Reg} {f : Word → Bool}
    (h : skipIf s (do let x ← readReg s a; pure (f x)) = .next t) : Skipped s t (f (s.x a)) := by
  obtain ⟨-, -, c, hc, hr, rfl⟩ := skipIf_eq_next.1 h
  obtain ⟨x, hx, hc⟩ := except_bind_ok.1 hc
  obtain ⟨-, rfl⟩ := readReg_eq_ok.1 hx
  obtain rfl : f (s.x a) = c := by simpa using hc
  exact ⟨hr, rfl⟩

/-- An instruction with a next state has its effect. -/
theorem exec_effect {i : Instr} {s t : State} (h : exec i s = .next t) : Effect s t i := by
  cases i with
  | add a b =>
    obtain ⟨-, -, y, hy, rfl⟩ := addTo_eq_next.1 h
    obtain ⟨-, rfl⟩ := readReg_eq_ok.1 hy; rfl
  | addi a imm5 =>
    obtain ⟨-, -, y, hy, rfl⟩ := addTo_eq_next.1 h
    obtain rfl : immediate s imm5 = y := by simpa using hy
    rfl
  | sub a b =>
    obtain ⟨-, -, y, hy, rfl⟩ := subtractFrom_eq_next.1 h
    obtain ⟨-, rfl⟩ := readReg_eq_ok.1 hy; rfl
  | subi a imm5 =>
    obtain ⟨-, -, y, hy, rfl⟩ := subtractFrom_eq_next.1 h
    obtain rfl : immediate s imm5 = y := by simpa using hy
    rfl
  | cmp a b =>
    obtain ⟨-, -, y, hy, rfl⟩ := compareWith_eq_next.1 h
    obtain ⟨-, rfl⟩ := readReg_eq_ok.1 hy; rfl
  | cmpi a imm5 =>
    obtain ⟨-, -, y, hy, rfl⟩ := compareWith_eq_next.1 h
    obtain rfl : immediate s imm5 = y := by simpa using hy
    rfl
  | lsl a b | lsr a b | asr a b | ext8d a b | ext16d a b => exact (combineRegs_eq_next.1 h).2.2.2
  | lsli a n | lsri a n | asri a n | ext8s a n | ext16s a n | movhi a n => exact (updateReg_eq_next.1 h).2.2
  | not a | neg a | abs a | sext8 a | sext16 a | swap a => exact (updateReg_eq_next.1 h).2.2
  | fill8 a | fill16 a => exact (accumulate_eq_next.1 h).2.2.2
  | and a b | andn a b | or a b | xor a b => exact (logical_eq_next.1 h).2.2
  | mov a b =>
    obtain ⟨-, -, h⟩ := except_bind_ok.1 (answer_eq_next.1 h)
    obtain ⟨y, hy, h⟩ := except_bind_ok.1 h
    obtain ⟨u, hu, h⟩ := except_bind_ok.1 h
    obtain ⟨-, rfl⟩ := readReg_eq_ok.1 hy
    obtain ⟨-, rfl⟩ := writeReg_eq_ok.1 hu
    exact (Except.ok.inj h).symm
  | movi a n | bgen a n =>
    obtain ⟨-, u, hu, rfl⟩ := ordinary_eq_next.1 h
    obtain ⟨-, rfl⟩ := writeReg_eq_ok.1 hu; rfl
  | rlc a | rrc a =>
    obtain ⟨-, u, hu, rfl⟩ := ordinary_eq_next.1 h
    obtain ⟨x, hx, hu⟩ := except_bind_ok.1 hu
    obtain ⟨w, hw, hu⟩ := except_bind_ok.1 hu
    obtain ⟨-, rfl⟩ := readReg_eq_ok.1 hx
    obtain ⟨-, rfl⟩ := writeReg_eq_ok.1 hw
    obtain rfl := Except.ok.inj hu
    rfl
  | mstep a =>
    change execMstep a s = _ at h
    unfold execMstep at h
    split at h
    · exact ⟨by assumption, (accumulate_eq_next.1 h).2.2.2⟩
    · simp at h
  | mul a =>
    change execMul a s = _ at h
    unfold execMul at h
    split at h
    · exact ⟨by assumption, (accumulate_eq_next.1 h).2.2.2⟩
    · simp at h
  | ld a b | ldp p n a | lds n a => exact loadFrom_loaded h
  | st a b | stp p n a | sts n a => exact storeTo_stored h
  | st8d a => exact storeByteLane_stored (lane := fun p => p.extractLsb' 0 2) h
  | st8s a n => exact storeByteLane_stored (lane := fun _ => n) h
  | sts8s n => exact storeByteLane_stored (lane := fun _ => n.extractLsb' 0 2) h
  | st16d a => exact storeHalfLane_stored (lane := fun p => p.extractLsb' 1 1) h
  | st16s a n => exact storeHalfLane_stored (lane := fun _ => n) h
  | sts16s n => exact storeHalfLane_stored (lane := fun _ => n.extractLsb' 0 1) h
  | skp0 a n | skp1 a n | skprz a | skprnz a => exact skipIf_register h
  | skps n =>
    obtain ⟨-, -, c, hc, hr, rfl⟩ := skipIf_eq_next.1 h
    exact ⟨c, hc, hr, rfl⟩
  | save n => exact (execSave_eq_next.1 h).2
  | restore => exact (execRestore_eq_next.1 h).2
  | trap n => exact (outsideSlot_eq_next.1 h).2.2
  | tret a | jmp a =>
    obtain ⟨-, -, h⟩ := outsideSlot_eq_next.1 h
    obtain ⟨x, hx, h⟩ := except_bind_ok.1 h
    obtain ⟨-, rfl⟩ := readReg_eq_ok.1 hx
    exact (Except.ok.inj h).symm
  | call a =>
    obtain ⟨-, -, h⟩ := outsideSlot_eq_next.1 h
    obtain ⟨x, hx, h⟩ := except_bind_ok.1 h
    obtain ⟨u, hu, h⟩ := except_bind_ok.1 h
    obtain ⟨-, rfl⟩ := readReg_eq_ok.1 hx
    obtain ⟨-, rfl⟩ := link_eq_ok.1 hu
    exact (Except.ok.inj h).symm
  | br n => exact (Except.ok.inj (outsideSlot_eq_next.1 h).2.2).symm
  | bsr n =>
    obtain ⟨-, -, h⟩ := outsideSlot_eq_next.1 h
    obtain ⟨u, hu, h⟩ := except_bind_ok.1 h
    obtain ⟨-, rfl⟩ := link_eq_ok.1 hu
    exact (Except.ok.inj h).symm
  | pfx n =>
    obtain ⟨-, -, h⟩ := outsideSlot_eq_next.1 h
    obtain ⟨_, hp, h⟩ := except_bind_ok.1 h
    refine ⟨?_, (Except.ok.inj h).symm⟩
    cases hs : s.pfxd
    · rfl
    · simp [requireNoPfx, hs] at hp
  | wrctl a =>
    obtain ⟨-, -, h⟩ := except_bind_ok.1 (answer_eq_next.1 h)
    obtain ⟨x, hx, h₁⟩ := except_bind_ok.1 h
    obtain ⟨-, rfl⟩ := readReg_eq_ok.1 hx
    obtain ⟨u, hu, h₂⟩ := except_bind_ok.1 h₁
    exact ⟨u, hu, (Except.ok.inj h₂).symm⟩
  | rdctl a =>
    obtain ⟨-, w, hw, rfl⟩ := ordinary_eq_next.1 h
    obtain ⟨⟨v, u⟩, hv, hw⟩ := except_bind_ok.1 hw
    obtain ⟨-, rfl⟩ := writeReg_eq_ok.1 hw
    exact ⟨v, u, hv, rfl⟩
  | usr0 a b | usr1 a | usr2 a | usr3 a | usr4 a => cases h

end Sys2Proof.Machine
end

