-- ==== Sys2Proof/Laws/PerInstr.lean ====
section
/-! SUPPORT. The family EncodesOwnRow: the word of an instruction is a word of its own row of the opcode map
(30_encoding.md R112), one lemma a constructor. -/

namespace Sys2Proof

/-- A concatenation masked as a concatenation. -/
theorem append_and_append {n m : Nat} (x y : BitVec n) (u v : BitVec m) :
    (x ++ u) &&& (y ++ v) = (x &&& y) ++ (u &&& v) := by
  ext i hi
  simp only [BitVec.getElem_and, BitVec.getElem_append]
  split <;> simp

/-! ## The opcode bits of each format: the word under the format's mask is the opcode with zeros for the fields -/

theorem formatRR_mask (op : BitVec 6) (b : BitVec 5) (a : BitVec 5) :
    formatRR op b a &&& 0xFC00 = op ++ 0#5 ++ 0#5 := by
  rw [show (0xFC00 : BitVec 16) = BitVec.allOnes 6 ++ 0#5 ++ 0#5 from rfl, formatRR, append_and_append, append_and_append]
  simp only [BitVec.and_allOnes, BitVec.and_zero]

theorem formatRi5_mask (op : BitVec 6) (imm5 : BitVec 5) (a : BitVec 5) :
    formatRi5 op imm5 a &&& 0xFC00 = op ++ 0#5 ++ 0#5 := by
  rw [show (0xFC00 : BitVec 16) = BitVec.allOnes 6 ++ 0#5 ++ 0#5 from rfl, formatRi5, append_and_append, append_and_append]
  simp only [BitVec.and_allOnes, BitVec.and_zero]

theorem formatRPi5_mask (op : BitVec 4) (p : BitVec 5) (imm5 : BitVec 5) (a : BitVec 5) :
    formatRPi5 op p imm5 a &&& 0xF000 = op ++ 0#2 ++ 0#5 ++ 0#5 := by
  rw [show (0xF000 : BitVec 16) = BitVec.allOnes 4 ++ 0#2 ++ 0#5 ++ 0#5 from rfl, formatRPi5, append_and_append, append_and_append, append_and_append]
  simp only [BitVec.and_allOnes, BitVec.and_zero]

theorem formatRi8_mask (op : BitVec 3) (imm8 : BitVec 8) (a : BitVec 5) :
    formatRi8 op imm8 a &&& 0xE000 = op ++ 0#8 ++ 0#5 := by
  rw [show (0xE000 : BitVec 16) = BitVec.allOnes 3 ++ 0#8 ++ 0#5 from rfl, formatRi8, append_and_append, append_and_append]
  simp only [BitVec.and_allOnes, BitVec.and_zero]

theorem formatI9_mask (op : BitVec 6) (imm9 : BitVec 9) :
    formatI9 op imm9 &&& 0xFC01 = op ++ 0#9 ++ 0#1 := by
  rw [show (0xFC01 : BitVec 16) = BitVec.allOnes 6 ++ 0#9 ++ BitVec.allOnes 1 from rfl, formatI9, append_and_append, append_and_append]
  simp only [BitVec.and_allOnes, BitVec.and_zero]

theorem formatI10_mask (op : BitVec 6) (imm10 : BitVec 10) :
    formatI10 op imm10 &&& 0xFC00 = op ++ 0#10 := by
  rw [show (0xFC00 : BitVec 16) = BitVec.allOnes 6 ++ 0#10 from rfl, formatI10, append_and_append]
  simp only [BitVec.and_allOnes, BitVec.and_zero]

theorem formatI11_mask (op : BitVec 5) (imm11 : BitVec 11) :
    formatI11 op imm11 &&& 0xF800 = op ++ 0#11 := by
  rw [show (0xF800 : BitVec 16) = BitVec.allOnes 5 ++ 0#11 from rfl, formatI11, append_and_append]
  simp only [BitVec.and_allOnes, BitVec.and_zero]

theorem formatRi1u_mask (op : BitVec 9) (imm1 : BitVec 1) (a : BitVec 5) :
    formatRi1u op imm1 a &&& 0xFFA0 = op ++ 0#1 ++ 0#1 ++ 0#5 := by
  rw [show (0xFFA0 : BitVec 16) = BitVec.allOnes 9 ++ 0#1 ++ BitVec.allOnes 1 ++ 0#5 from rfl, formatRi1u, append_and_append, append_and_append, append_and_append]
  simp only [BitVec.and_allOnes, BitVec.and_zero]

theorem formatRi2u_mask (op : BitVec 9) (imm2 : BitVec 2) (a : BitVec 5) :
    formatRi2u op imm2 a &&& 0xFF80 = op ++ 0#2 ++ 0#5 := by
  rw [show (0xFF80 : BitVec 16) = BitVec.allOnes 9 ++ 0#2 ++ 0#5 from rfl, formatRi2u, append_and_append, append_and_append]
  simp only [BitVec.and_allOnes, BitVec.and_zero]

theorem formatI8v_mask (op : BitVec 8) (imm8 : BitVec 8) :
    formatI8v op imm8 &&& 0xFF00 = op ++ 0#8 := by
  rw [show (0xFF00 : BitVec 16) = BitVec.allOnes 8 ++ 0#8 from rfl, formatI8v, append_and_append]
  simp only [BitVec.and_allOnes, BitVec.and_zero]

theorem formatI6v_mask (op : BitVec 8) (imm6 : BitVec 6) :
    formatI6v op imm6 &&& 0xFFC0 = op ++ 0#2 ++ 0#6 := by
  rw [show (0xFFC0 : BitVec 16) = BitVec.allOnes 8 ++ BitVec.allOnes 2 ++ 0#6 from rfl, formatI6v, append_and_append, append_and_append]
  simp only [BitVec.and_allOnes, BitVec.and_zero]

theorem formatRw_mask (op5w : BitVec 5) (a : BitVec 5) :
    formatRw op5w a &&& 0xFFE0 = 0b011111#6 ++ op5w ++ 0#5 := by
  rw [show (0xFFE0 : BitVec 16) = BitVec.allOnes 6 ++ BitVec.allOnes 5 ++ 0#5 from rfl, formatRw, append_and_append, append_and_append]
  simp only [BitVec.and_allOnes, BitVec.and_zero]

theorem formatI4w_mask (op5w : BitVec 5) (imm4 : BitVec 4) :
    formatI4w op5w imm4 &&& 0xFFF0 = 0b011111#6 ++ op5w ++ 0#1 ++ 0#4 := by
  rw [show (0xFFF0 : BitVec 16) = BitVec.allOnes 6 ++ BitVec.allOnes 5 ++ BitVec.allOnes 1 ++ 0#4 from rfl, formatI4w, append_and_append, append_and_append, append_and_append]
  simp only [BitVec.and_allOnes, BitVec.and_zero]

theorem formatW_mask (op5w : BitVec 5) :
    formatW op5w &&& 0xFFFF = 0b011111#6 ++ op5w ++ 0#5 := by
  rw [show (0xFFFF : BitVec 16) = BitVec.allOnes 6 ++ BitVec.allOnes 5 ++ BitVec.allOnes 5 from rfl, formatW, append_and_append, append_and_append]
  simp only [BitVec.and_allOnes]

/-- `encode i` is a word of the row of `i`. -/
def Laws.EncodesOwnRow.Statement (i : Instr) : Prop := encode i &&& i.row.mask = i.row.value

/-! ## One lemma a constructor -/

theorem Laws.EncodesOwnRow.add (a b : Reg) : Laws.EncodesOwnRow.Statement (.add a b) :=
  formatRR_mask _ _ _

theorem Laws.EncodesOwnRow.addi (a : Reg) (imm5 : BitVec 5) : Laws.EncodesOwnRow.Statement (.addi a imm5) :=
  formatRi5_mask _ _ _

theorem Laws.EncodesOwnRow.sub (a b : Reg) : Laws.EncodesOwnRow.Statement (.sub a b) :=
  formatRR_mask _ _ _

theorem Laws.EncodesOwnRow.subi (a : Reg) (imm5 : BitVec 5) : Laws.EncodesOwnRow.Statement (.subi a imm5) :=
  formatRi5_mask _ _ _

theorem Laws.EncodesOwnRow.cmp (a b : Reg) : Laws.EncodesOwnRow.Statement (.cmp a b) :=
  formatRR_mask _ _ _

theorem Laws.EncodesOwnRow.cmpi (a : Reg) (imm5 : BitVec 5) : Laws.EncodesOwnRow.Statement (.cmpi a imm5) :=
  formatRi5_mask _ _ _

theorem Laws.EncodesOwnRow.lsl (a b : Reg) : Laws.EncodesOwnRow.Statement (.lsl a b) :=
  formatRR_mask _ _ _

theorem Laws.EncodesOwnRow.lsli (a : Reg) (imm5 : BitVec 5) : Laws.EncodesOwnRow.Statement (.lsli a imm5) :=
  formatRi5_mask _ _ _

theorem Laws.EncodesOwnRow.lsr (a b : Reg) : Laws.EncodesOwnRow.Statement (.lsr a b) :=
  formatRR_mask _ _ _

theorem Laws.EncodesOwnRow.lsri (a : Reg) (imm5 : BitVec 5) : Laws.EncodesOwnRow.Statement (.lsri a imm5) :=
  formatRi5_mask _ _ _

theorem Laws.EncodesOwnRow.asr (a b : Reg) : Laws.EncodesOwnRow.Statement (.asr a b) :=
  formatRR_mask _ _ _

theorem Laws.EncodesOwnRow.asri (a : Reg) (imm5 : BitVec 5) : Laws.EncodesOwnRow.Statement (.asri a imm5) :=
  formatRi5_mask _ _ _

theorem Laws.EncodesOwnRow.mov (a b : Reg) : Laws.EncodesOwnRow.Statement (.mov a b) :=
  formatRR_mask _ _ _

theorem Laws.EncodesOwnRow.movi (a : Reg) (imm5 : BitVec 5) : Laws.EncodesOwnRow.Statement (.movi a imm5) :=
  formatRi5_mask _ _ _

theorem Laws.EncodesOwnRow.and (a : Reg) (b : BitVec 5) : Laws.EncodesOwnRow.Statement (.and a b) :=
  formatRR_mask _ _ _

theorem Laws.EncodesOwnRow.andn (a : Reg) (b : BitVec 5) : Laws.EncodesOwnRow.Statement (.andn a b) :=
  formatRR_mask _ _ _

theorem Laws.EncodesOwnRow.or (a : Reg) (b : BitVec 5) : Laws.EncodesOwnRow.Statement (.or a b) :=
  formatRR_mask _ _ _

theorem Laws.EncodesOwnRow.xor (a : Reg) (b : BitVec 5) : Laws.EncodesOwnRow.Statement (.xor a b) :=
  formatRR_mask _ _ _

theorem Laws.EncodesOwnRow.bgen (a : Reg) (imm5 : BitVec 5) : Laws.EncodesOwnRow.Statement (.bgen a imm5) :=
  formatRi5_mask _ _ _

theorem Laws.EncodesOwnRow.ext8d (a b : Reg) : Laws.EncodesOwnRow.Statement (.ext8d a b) :=
  formatRR_mask _ _ _

theorem Laws.EncodesOwnRow.skp0 (a : Reg) (imm5 : BitVec 5) : Laws.EncodesOwnRow.Statement (.skp0 a imm5) :=
  formatRi5_mask _ _ _

theorem Laws.EncodesOwnRow.skp1 (a : Reg) (imm5 : BitVec 5) : Laws.EncodesOwnRow.Statement (.skp1 a imm5) :=
  formatRi5_mask _ _ _

theorem Laws.EncodesOwnRow.ld (a b : Reg) : Laws.EncodesOwnRow.Statement (.ld a b) :=
  formatRR_mask _ _ _

theorem Laws.EncodesOwnRow.st (a b : Reg) : Laws.EncodesOwnRow.Statement (.st a b) :=
  formatRR_mask _ _ _

theorem Laws.EncodesOwnRow.sts8s (imm10 : BitVec 10) : Laws.EncodesOwnRow.Statement (.sts8s imm10) :=
  formatI10_mask _ _

theorem Laws.EncodesOwnRow.sts16s (imm9 : BitVec 9) : Laws.EncodesOwnRow.Statement (.sts16s imm9) :=
  formatI9_mask _ _

theorem Laws.EncodesOwnRow.ext16d (a b : Reg) : Laws.EncodesOwnRow.Statement (.ext16d a b) :=
  formatRR_mask _ _ _

theorem Laws.EncodesOwnRow.movhi (a : Reg) (imm5 : BitVec 5) : Laws.EncodesOwnRow.Statement (.movhi a imm5) :=
  formatRi5_mask _ _ _

theorem Laws.EncodesOwnRow.usr0 (a b : Reg) : Laws.EncodesOwnRow.Statement (.usr0 a b) :=
  formatRR_mask _ _ _

theorem Laws.EncodesOwnRow.ext8s (a : Reg) (imm2 : BitVec 2) : Laws.EncodesOwnRow.Statement (.ext8s a imm2) :=
  formatRi2u_mask _ _ _

theorem Laws.EncodesOwnRow.ext16s (a : Reg) (imm1 : BitVec 1) : Laws.EncodesOwnRow.Statement (.ext16s a imm1) :=
  formatRi1u_mask _ _ _

theorem Laws.EncodesOwnRow.st8s (a : Reg) (imm2 : BitVec 2) : Laws.EncodesOwnRow.Statement (.st8s a imm2) :=
  formatRi2u_mask _ _ _

theorem Laws.EncodesOwnRow.st16s (a : Reg) (imm1 : BitVec 1) : Laws.EncodesOwnRow.Statement (.st16s a imm1) :=
  formatRi1u_mask _ _ _

theorem Laws.EncodesOwnRow.save (imm8 : BitVec 8) : Laws.EncodesOwnRow.Statement (.save imm8) :=
  formatI8v_mask _ _

theorem Laws.EncodesOwnRow.trap (imm6 : ExcNum) : Laws.EncodesOwnRow.Statement (.trap imm6) :=
  formatI6v_mask _ _

theorem Laws.EncodesOwnRow.not (a : Reg) : Laws.EncodesOwnRow.Statement (.not a) :=
  formatRw_mask _ _

theorem Laws.EncodesOwnRow.neg (a : Reg) : Laws.EncodesOwnRow.Statement (.neg a) :=
  formatRw_mask _ _

theorem Laws.EncodesOwnRow.abs (a : Reg) : Laws.EncodesOwnRow.Statement (.abs a) :=
  formatRw_mask _ _

theorem Laws.EncodesOwnRow.sext8 (a : Reg) : Laws.EncodesOwnRow.Statement (.sext8 a) :=
  formatRw_mask _ _

theorem Laws.EncodesOwnRow.sext16 (a : Reg) : Laws.EncodesOwnRow.Statement (.sext16 a) :=
  formatRw_mask _ _

theorem Laws.EncodesOwnRow.rlc (a : Reg) : Laws.EncodesOwnRow.Statement (.rlc a) :=
  formatRw_mask _ _

theorem Laws.EncodesOwnRow.rrc (a : Reg) : Laws.EncodesOwnRow.Statement (.rrc a) :=
  formatRw_mask _ _

theorem Laws.EncodesOwnRow.swap (a : Reg) : Laws.EncodesOwnRow.Statement (.swap a) :=
  formatRw_mask _ _

theorem Laws.EncodesOwnRow.usr1 (a : Reg) : Laws.EncodesOwnRow.Statement (.usr1 a) :=
  formatRw_mask _ _

theorem Laws.EncodesOwnRow.usr2 (a : Reg) : Laws.EncodesOwnRow.Statement (.usr2 a) :=
  formatRw_mask _ _

theorem Laws.EncodesOwnRow.usr3 (a : Reg) : Laws.EncodesOwnRow.Statement (.usr3 a) :=
  formatRw_mask _ _

theorem Laws.EncodesOwnRow.usr4 (a : Reg) : Laws.EncodesOwnRow.Statement (.usr4 a) :=
  formatRw_mask _ _

theorem Laws.EncodesOwnRow.restore : Laws.EncodesOwnRow.Statement (.restore) :=
  formatW_mask _

theorem Laws.EncodesOwnRow.tret (a : Reg) : Laws.EncodesOwnRow.Statement (.tret a) :=
  formatRw_mask _ _

theorem Laws.EncodesOwnRow.st8d (a : Reg) : Laws.EncodesOwnRow.Statement (.st8d a) :=
  formatRw_mask _ _

theorem Laws.EncodesOwnRow.st16d (a : Reg) : Laws.EncodesOwnRow.Statement (.st16d a) :=
  formatRw_mask _ _

theorem Laws.EncodesOwnRow.fill8 (a : Reg) : Laws.EncodesOwnRow.Statement (.fill8 a) :=
  formatRw_mask _ _

theorem Laws.EncodesOwnRow.fill16 (a : Reg) : Laws.EncodesOwnRow.Statement (.fill16 a) :=
  formatRw_mask _ _

theorem Laws.EncodesOwnRow.mstep (a : Reg) : Laws.EncodesOwnRow.Statement (.mstep a) :=
  formatRw_mask _ _

theorem Laws.EncodesOwnRow.mul (a : Reg) : Laws.EncodesOwnRow.Statement (.mul a) :=
  formatRw_mask _ _

theorem Laws.EncodesOwnRow.skprz (a : Reg) : Laws.EncodesOwnRow.Statement (.skprz a) :=
  formatRw_mask _ _

theorem Laws.EncodesOwnRow.skps (imm4 : BitVec 4) : Laws.EncodesOwnRow.Statement (.skps imm4) :=
  formatI4w_mask _ _

theorem Laws.EncodesOwnRow.wrctl (a : Reg) : Laws.EncodesOwnRow.Statement (.wrctl a) :=
  formatRw_mask _ _

theorem Laws.EncodesOwnRow.rdctl (a : Reg) : Laws.EncodesOwnRow.Statement (.rdctl a) :=
  formatRw_mask _ _

theorem Laws.EncodesOwnRow.skprnz (a : Reg) : Laws.EncodesOwnRow.Statement (.skprnz a) :=
  formatRw_mask _ _

theorem Laws.EncodesOwnRow.jmp (a : Reg) : Laws.EncodesOwnRow.Statement (.jmp a) :=
  formatRw_mask _ _

theorem Laws.EncodesOwnRow.call (a : Reg) : Laws.EncodesOwnRow.Statement (.call a) :=
  formatRw_mask _ _

theorem Laws.EncodesOwnRow.br (imm11 : BitVec 11) : Laws.EncodesOwnRow.Statement (.br imm11) :=
  formatI11_mask _ _

theorem Laws.EncodesOwnRow.bsr (imm11 : BitVec 11) : Laws.EncodesOwnRow.Statement (.bsr imm11) :=
  formatI11_mask _ _

theorem Laws.EncodesOwnRow.pfx (imm11 : BitVec 11) : Laws.EncodesOwnRow.Statement (.pfx imm11) :=
  formatI11_mask _ _

theorem Laws.EncodesOwnRow.stp (p : Reg) (imm5 : BitVec 5) (a : Reg) : Laws.EncodesOwnRow.Statement (.stp p imm5 a) :=
  formatRPi5_mask _ _ _ _

theorem Laws.EncodesOwnRow.ldp (p : Reg) (imm5 : BitVec 5) (a : Reg) : Laws.EncodesOwnRow.Statement (.ldp p imm5 a) :=
  formatRPi5_mask _ _ _ _

theorem Laws.EncodesOwnRow.sts (imm8 : BitVec 8) (a : Reg) : Laws.EncodesOwnRow.Statement (.sts imm8 a) :=
  formatRi8_mask _ _ _

theorem Laws.EncodesOwnRow.lds (imm8 : BitVec 8) (a : Reg) : Laws.EncodesOwnRow.Statement (.lds imm8 a) :=
  formatRi8_mask _ _ _

end Sys2Proof
end

