-- ==== Sys2Proof/Tests/Slice0.lean ====
section
/-! SUPPORT. The model's own tests. Words and expected values are those of spec/95_test_vectors.md or worked out by
hand from the rule named; then, for every obligation with hypotheses, a state and operands that meet them. -/

namespace Sys2Proof.Tests

open Sys2Proof Sys2Proof.Machine

set_option Elab.async false

/-! ## Well-formed terms -/

theorem test_ldp_base_is_L0_to_L3 :
    (Instr.ldp 15 0 0).wellFormed = false ∧ (Instr.ldp 16 0 0).wellFormed = true ∧
    (Instr.ldp 19 0 0).wellFormed = true ∧ (Instr.ldp 20 0 0).wellFormed = false := by decide

theorem test_stp_base_is_L0_to_L3 :
    (Instr.stp 15 0 0).wellFormed = false ∧ (Instr.stp 16 0 0).wellFormed = true ∧
    (Instr.stp 19 0 0).wellFormed = true ∧ (Instr.stp 20 0 0).wellFormed = false := by decide

/-! ## Decoding: the example words of 95_test_vectors.md, section 2 -/

/-- The word decodes to the instruction, and the instruction encodes to the word. -/
abbrev means (w : Half) (i : Instr) : Prop := decodeWord w = .ok i ∧ encode i = w

theorem test_decode_arithmetic :
    means 0x0013 (.add 19 0) ∧ means 0x04D5 (.addi 21 6) ∧ means 0x081B (.sub 27 0) ∧
    means 0x0CD5 (.subi 21 6) ∧ means 0x1020 (.cmp 0 1) ∧ means 0x171B (.cmpi 27 24) ∧ means 0x7C2C (.neg 12) ∧
    means 0x7C46 (.abs 6) ∧ means 0x7E81 (.mstep 1) ∧ means 0x7EBD (.mul 29) := by
  decide +kernel

theorem test_decode_shift :
    means 0x1813 (.lsl 19 0) ∧ means 0x1CD9 (.lsli 25 6) ∧ means 0x2013 (.lsr 19 0) ∧
    means 0x24C1 (.lsri 1 6) ∧ means 0x2813 (.asr 19 0) ∧ means 0x2CDD (.asri 29 6) ∧ means 0x7CBC (.rlc 28) ∧
    means 0x7CDC (.rrc 28) := by
  decide +kernel

theorem test_decode_move :
    means 0x3268 (.mov 8 19) ∧ means 0x3000 (.mov 0 0) ∧ means 0x34EB (.movi 11 7) ∧
    means 0x6EE3 (.movhi 3 23) ∧ means 0x9803 (.pfx 3) ∧ means 0x9FFF (.pfx 0x7FF) ∧
    means 0x7D03 (.swap 3) := by
  decide +kernel

theorem test_decode_logical :
    means 0x3820 (.and 0 1) ∧ means 0x3C20 (.andn 0 1) ∧ means 0x4338 (.or 24 25) ∧ means 0x4420 (.xor 0 1) ∧
    means 0x7C0C (.not 12) ∧ means 0x48C7 (.bgen 7 6) := by
  decide +kernel

theorem test_decode_extract :
    means 0x4F04 (.ext8d 4 24) ∧ means 0x7466 (.ext8s 6 3) ∧ means 0x6B9B (.ext16d 27 28) ∧
    means 0x74D3 (.ext16s 19 1) ∧ means 0x7C6B (.sext8 11) ∧ means 0x7C83 (.sext16 3) ∧
    means 0x7E4B (.fill8 11) ∧ means 0x7E7B (.fill16 27) := by
  decide +kernel

theorem test_decode_load_store :
    means 0x5B60 (.ld 0 27) ∧ means 0xB86B (.ldp 18 3 11) ∧ means 0xE069 (.lds 3 9) ∧ means 0x5C1B (.st 27 0) ∧
    means 0xA863 (.stp 18 3 3) ∧ means 0xC23D (.sts 17 29) ∧ means 0x7E0B (.st8d 11) ∧
    means 0x7664 (.st8s 4 3) ∧ means 0x7E2B (.st16d 11) ∧ means 0x76C4 (.st16s 4 1) ∧
    means 0x600D (.sts8s 13) ∧ means 0x640E (.sts16s 7) := by
  decide +kernel

theorem test_decode_flow :
    means 0x87FC (.br 0x7FC) ∧ means 0x8804 (.bsr 4) ∧ means 0x7FCF (.jmp 15) ∧ means 0x7FE0 (.call 0) ∧
    means 0x50EB (.skp0 11 7) ∧ means 0x56AB (.skp1 11 21) ∧ means 0x7ECB (.skprz 11) ∧
    means 0x7F43 (.skprnz 3) ∧ means 0x7EE3 (.skps 3) := by
  decide +kernel

theorem test_decode_system :
    means 0x7817 (.save 23) ∧ means 0x7DA0 .restore ∧ means 0x793F (.trap 63) ∧ means 0x7DCF (.tret 15) ∧
    means 0x7F27 (.rdctl 7) ∧ means 0x7F07 (.wrctl 7) ∧ means 0x7022 (.usr0 2 1) ∧ means 0x7D23 (.usr1 3) ∧
    means 0x7D44 (.usr2 4) ∧ means 0x7D65 (.usr3 5) ∧ means 0x7D86 (.usr4 6) := by
  decide +kernel

/-- One word of every format, its fields written apart as 30_encoding.md R92 lays them out. -/
theorem test_decode_bit_by_bit :
    decodeWord (0b000000#6 ++ 0b00000#5 ++ 0b10011#5) = .ok (.add 19 0) ∧
    decodeWord (0b000001#6 ++ 0b00110#5 ++ 0b10101#5) = .ok (.addi 21 6) ∧
    decodeWord (0b1010#4 ++ 0b10#2 ++ 0b00011#5 ++ 0b00001#5) = .ok (.stp 18 3 1) ∧
    decodeWord (0b111#3 ++ 0b00000011#8 ++ 0b01001#5) = .ok (.lds 3 9) ∧
    decodeWord (0b011001#6 ++ 0b000000111#9 ++ 0b0#1) = .ok (.sts16s 7) ∧
    decodeWord (0b011000#6 ++ 0b0000001101#10) = .ok (.sts8s 13) ∧
    decodeWord (0b10001#5 ++ 0b00000000100#11) = .ok (.bsr 4) ∧
    decodeWord (0b011101#6 ++ 0b001#3 ++ 0b1#1 ++ 0b0#1 ++ 0b10011#5) = .ok (.ext16s 19 1) ∧
    decodeWord (0b011101#6 ++ 0b100#3 ++ 0b11#2 ++ 0b00100#5) = .ok (.st8s 4 3) ∧
    decodeWord (0b011110#6 ++ 0b00#2 ++ 0b00010111#8) = .ok (.save 23) ∧
    decodeWord (0b011110#6 ++ 0b01#2 ++ 0b00#2 ++ 0b111111#6) = .ok (.trap 63) ∧
    decodeWord (0b011111#6 ++ 0b10101#5 ++ 0b11101#5) = .ok (.mul 29) ∧
    decodeWord (0b011111#6 ++ 0b10111#5 ++ 0b0#1 ++ 0b0011#4) = .ok (.skps 3) ∧
    decodeWord (0b011111#6 ++ 0b01101#5 ++ 0b00000#5) = .ok .restore := by
  decide +kernel

/-- Words of no row (95 §3.10 Z1 to Z3; the fixed zeros of STS16s, EXT16s, RESTORE, SKPS). -/
theorem test_decode_unassigned :
    decodeWord 0x9000 = .error .unassigned ∧ decodeWord 0x7F60 = .error .unassigned ∧
    decodeWord 0x7940 = .error .fixedZero ∧ decodeWord 0x6401 = .error .fixedZero ∧
    decodeWord 0x74B3 = .error .fixedZero ∧ decodeWord 0x7DA1 = .error .fixedZero ∧
    decodeWord 0x7EF3 = .error .fixedZero := by
  decide +kernel

/-! ## A small machine -/

/-- 128 registers, vector table at 0; 64 KiB of RAM, 4 KiB of ROM, a peripheral of 8-bit registers, and nothing
else. -/
def config : Config :=
  { regfile := .r128, vecBase := 0, wvalidWritable := true, resetPc := 0x100, hasMul := true, hasMstep := true
    map := [{ base := 0, size := 0x10000, kind := .ram }, { base := 0x10000, size := 0x1000, kind := .rom },
      { base := 0x20000, size := 0x100, kind := .peripheral 8 }] }

/-- The reset state of that machine with these visible registers. -/
def start (values : List (Reg × Word)) : State :=
  { State.resetWith config [] with
    regs := values.foldl (fun r v => r.set (phys 6 v.1) v.2) (List.replicate 128 0) }

/-- The same with STATUS made of IE, IPRI, CWP and NVZC. -/
def startWith (ie : Bool) (ipri : ExcNum) (cwp : BitVec 5) (nvzc : BitVec 4) (values : List (Reg × Word)) : State :=
  { State.resetWith config [] with
    status := mkStatus ie ipri cwp nvzc
    regs := values.foldl (fun r v => r.set (phys cwp v.1) v.2) (List.replicate 128 0) }

/-- The state just after PFX k. -/
def prefixed (k : BitVec 11) (s : State) : State := { s with k := k, pfxd := true }

/-- The state with a word in memory. -/
def withWord (a : Nat) (v : Word) (s : State) : State := { s with mem := s.mem.putWord a v }

/-- The state with a half-word in memory. -/
def withHalf (a : Nat) (v : Half) (s : State) : State := { s with mem := s.mem.putHalf a v }

/-- `f` of the next state, where there is one. -/
def after {α : Type} (o : Host.Outcome State Fault Refusal) (f : State → α) : Option α :=
  match o with
  | .next t => some (f t)
  | _ => none

/-- Why one step that runs the word `w` is refused. -/
def refusal (w : Nat) (s : State) : Option Refusal :=
  match step (s.withFetchWord 16 w) with
  | .refused r => some r
  | _ => none

/-- `f` of the state after one step that runs the word `w`. -/
def run {α : Type} (w : Nat) (s : State) (f : State → α) : Option α := after (step (s.withFetchWord 16 w)) f

/-- STATUS[3:0]. -/
def nvzc (s : State) : BitVec 4 := statusNVZC s.status

/-! ## One step of each instruction (95 §3.1 to §3.9) -/

theorem test_add : run 0x0041 (start [(1, 0x80000000), (2, 0x80000000)]) (fun t => (t.x 1, nvzc t)) =
    some (0, 0b0111) := by decide +kernel
theorem test_addi_prefixed_zero_extends : run 0x07E3 (prefixed 0x7FF (start [])) (fun t => (t.x 3, nvzc t, t.k)) =
    some (0xFFFF, 0b0000, 0) := by decide +kernel
theorem test_sub_borrows : run 0x0841 (start [(1, 0), (2, 1)]) (fun t => (t.x 1, nvzc t)) =
    some (0xFFFFFFFF, 0b1001) := by decide +kernel
theorem test_subi : run 0x0CD5 (start [(21, 3)]) (fun t => (t.x 21, nvzc t)) = some (0xFFFFFFFD, 0b1001) := by
  decide +kernel
theorem test_cmp : run 0x1020 (start [(0, 0xFFFFFFFF), (1, 1)]) (fun t => (t.x 0, nvzc t)) =
    some (0xFFFFFFFF, 0b1000) := by decide +kernel
theorem test_cmpi : run 0x151C (prefixed 0x1F (start [(28, 999)])) (fun t => (t.x 28, nvzc t)) =
    some (999, 0b1001) := by decide +kernel
theorem test_neg_keeps_flags : run 0x7C2C (startWith false 63 6 0b0101 [(12, 0x80000000)])
    (fun t => (t.x 12, nvzc t)) = some (0x80000000, 0b0101) := by decide +kernel
theorem test_abs : run 0x7C46 (start [(6, 0xFFFFFFFB)]) (fun t => t.x 6) = some 5 := by decide +kernel
theorem test_mstep : run 0x7E81 (start [(0, 0x80000000), (1, 3)]) (fun t => (t.x 0, t.x 1)) = some (3, 3) := by
  decide +kernel
theorem test_mstep_of_r0 : run 0x7E80 (start [(0, 0xC0000000)]) (fun t => t.x 0) = some 0x40000000 := by
  decide +kernel
theorem test_mul_uses_low_halves : run 0x7EBD (start [(0, 0x00010003), (29, 0xFFFF0005)])
    (fun t => (t.x 0, t.x 29)) = some (0xF, 0xFFFF0005) := by decide +kernel
theorem test_mul_unsigned : run 0x7EBD (start [(0, 0xFFFF), (29, 0xFFFF)]) (fun t => t.x 0) = some 0xFFFE0001 := by
  decide +kernel

theorem test_lsl_count_modulo_32 : run 0x1813 (startWith false 63 6 0b1010 [(19, 0x80000001), (0, 0x21)])
    (fun t => (t.x 19, nvzc t)) = some (2, 0b1010) := by decide +kernel
theorem test_lsl_by_itself : run 0x1821 (start [(1, 4)]) (fun t => t.x 1) = some 0x40 := by decide +kernel
theorem test_lsli : run 0x1FF9 (start [(25, 0xFFFFFFFF)]) (fun t => t.x 25) = some 0x80000000 := by decide +kernel
theorem test_lsli_ignores_k : run 0x1CD9 (prefixed 1 (start [(25, 1)])) (fun t => (t.x 25, t.k)) =
    some (0x40, 0) := by decide +kernel
theorem test_lsr : run 0x2013 (start [(19, 0x80000000), (0, 31)]) (fun t => t.x 19) = some 1 := by decide +kernel
theorem test_lsri : run 0x24C1 (start [(1, 0x80000040)]) (fun t => t.x 1) = some 0x02000001 := by decide +kernel
theorem test_asr : run 0x2813 (start [(19, 0x80000000), (0, 31)]) (fun t => t.x 19) = some 0xFFFFFFFF := by
  decide +kernel
theorem test_asri : run 0x2CDD (start [(29, 0x7FFFFF00)]) (fun t => t.x 29) = some 0x01FFFFFC := by decide +kernel
theorem test_rlc_writes_only_c : run 0x7CBC (startWith false 63 6 0b1111 [(28, 1)]) (fun t => (t.x 28, nvzc t)) =
    some (3, 0b1110) := by decide +kernel
theorem test_rrc : run 0x7CDC (startWith false 63 6 0b0001 [(28, 2)]) (fun t => (t.x 28, nvzc t)) =
    some (0x80000001, 0b0000) := by decide +kernel

theorem test_mov : run 0x3268 (startWith false 63 6 0b1111 [(19, 0xDEADBEEF)]) (fun t => (t.x 8, nvzc t)) =
    some (0xDEADBEEF, 0b1111) := by decide +kernel
theorem test_movi_clears_upper_half : run 0x35AB (prefixed 9 (start [(11, 0xFFFFFFFF)])) (fun t => t.x 11) =
    some 301 := by decide +kernel
theorem test_movhi_keeps_low_half : run 0x6C83 (prefixed 3 (start [(3, 0xAAAA5555)])) (fun t => t.x 3) =
    some 0x00645555 := by decide +kernel
theorem test_pfx : run 0x9803 (start []) (fun t => (t.k, t.pfxd, t.pc)) = some (3, true, 0x102) := by decide +kernel
theorem test_swap : run 0x7D03 (start [(3, 0x12345678)]) (fun t => t.x 3) = some 0x56781234 := by decide +kernel

theorem test_and_keeps_v_and_c : run 0x3820 (startWith false 63 6 0b0101 [(0, 0xF0F0F0F0), (1, 0x0FF00FF0)])
    (fun t => (t.x 0, nvzc t)) = some (0x00F000F0, 0b0101) := by decide +kernel
theorem test_and_after_pfx_zero_is_immediate : run 0x3BE0 (prefixed 0 (start [(0, 0xFFFFFFFF), (31, 0x12345678)]))
    (fun t => t.x 0) = some 0x1F := by decide +kernel
theorem test_andn : run 0x3C00 (prefixed 0x200 (start [(0, 0xFFFFFFFF)])) (fun t => (t.x 0, nvzc t)) =
    some (0xFFFFBFFF, 0b1000) := by decide +kernel
theorem test_or : run 0x4338 (start [(24, 0x80000000), (25, 1)]) (fun t => (t.x 24, nvzc t)) =
    some (0x80000001, 0b1000) := by decide +kernel
theorem test_xor : run 0x4420 (start [(0, 0xA5A5A5A5), (1, 0xA5A5A5A5)]) (fun t => (t.x 0, nvzc t)) =
    some (0, 0b0010) := by decide +kernel
theorem test_not : run 0x7C0C (start [(12, 0x0000FFFF)]) (fun t => (t.x 12, nvzc t)) = some (0xFFFF0000, 0) := by
  decide +kernel
theorem test_bgen : run 0x4BE7 (start []) (fun t => (t.x 7, nvzc t)) = some (0x80000000, 0) := by decide +kernel

theorem test_ext8d : run 0x4D83 (start [(3, 0x48534946), (12, 0x1202)]) (fun t => t.x 3) = some 0x53 := by
  decide +kernel
theorem test_ext8s : run 0x7466 (start [(6, 0x48534946)]) (fun t => t.x 6) = some 0x48 := by decide +kernel
theorem test_ext16d : run 0x6B9B (start [(27, 0x48534946), (28, 0x1202)]) (fun t => t.x 27) = some 0x4853 := by
  decide +kernel
theorem test_ext16s : run 0x7493 (start [(19, 0x48534946)]) (fun t => t.x 19) = some 0x4946 := by decide +kernel
theorem test_sext8 : run 0x7C6B (start [(11, 0x12345680)]) (fun t => t.x 11) = some 0xFFFFFF80 := by decide +kernel
theorem test_sext16 : run 0x7C83 (start [(3, 0x12348000)]) (fun t => t.x 3) = some 0xFFFF8000 := by decide +kernel
theorem test_fill8 : run 0x7E4B (start [(11, 0x12345654)]) (fun t => (t.x 0, t.x 11)) =
    some (0x54545454, 0x12345654) := by decide +kernel
theorem test_fill16 : run 0x7E7B (start [(27, 0x1234ABCD)]) (fun t => t.x 0) = some 0xABCDABCD := by decide +kernel

theorem test_ld_drops_low_bits : run 0x5B60 (withWord 0x1200 0x48534946 (start [(27, 0x1203)]))
    (fun t => (t.x 0, t.x 27)) = some (0x48534946, 0x1203) := by decide +kernel
theorem test_ld_negative_offset : run 0x5B60 (withWord 0x11FC 0xCAFEF00D (prefixed 0x7FF (start [(27, 0x1200)])))
    (fun t => t.x 0) = some 0xCAFEF00D := by decide +kernel
theorem test_ldp_offset_31_is_positive : run 0xB3E1 (withWord 0x127C 0xCC (start [(16, 0x1200)])) (fun t => t.x 1) =
    some 0xCC := by decide +kernel
theorem test_lds_largest_offset : run 0xFFE9 (withWord 0x13FC 0xEE (start [(14, 0x1000)])) (fun t => t.x 9) =
    some 0xEE := by decide +kernel
theorem test_st_wraps_to_zero : run 0x5C1B (prefixed 1 (start [(0, 0xFFFFFFFC), (27, 0x11111111)]))
    (fun t => t.mem.word 0) = some 0x11111111 := by decide +kernel
theorem test_stp : run 0xA8C3 (prefixed 3 (start [(18, 0x1200), (3, 0x01020304)])) (fun t => t.mem.word 0x1398) =
    some 0x01020304 := by decide +kernel
theorem test_sts : run 0xC23D (start [(14, 0x1000), (29, 0x0A0B0C0D)]) (fun t => t.mem.word 0x1044) =
    some 0x0A0B0C0D := by decide +kernel
theorem test_st8d : run 0x7E0B (prefixed 5 (start [(0, 0xAABBCCDD), (11, 0x1202)])) (fun t => t.mem.word 0x1214) =
    some 0x00BB0000 := by decide +kernel
theorem test_st8s : run 0x7604 (start [(0, 0xAABBCCDD), (4, 0x1203)]) (fun t => t.mem.word 0x1200) =
    some 0xDD := by decide +kernel
theorem test_st16d : run 0x7E2B (start [(0, 0xAABBCCDD), (11, 0x1203)]) (fun t => t.mem.word 0x1200) =
    some 0xAABB0000 := by decide +kernel
theorem test_st16s : run 0x7684 (prefixed 0x7FF (start [(0, 0xAABBCCDD), (4, 0x1200)]))
    (fun t => t.mem.word 0x11FC) = some 0x0000CCDD := by decide +kernel
theorem test_sts8s_misaligned_sp : run 0x6003 (start [(0, 0xAABBCCDD), (14, 0x1001)])
    (fun t => (t.mem.word 0x1000, t.mem.word 0x1004)) = some (0, 0xAA000000) := by decide +kernel
theorem test_sts16s : run 0x640E (start [(0, 0xAABBCCDD), (14, 0x1000)]) (fun t => t.mem.word 0x100C) =
    some 0xAABB0000 := by decide +kernel

theorem test_br_to_itself : run 0x87FF (start []) (fun t => (t.pc, t.ds)) = some (0x102, some 0x100) := by
  decide +kernel
theorem test_bsr : run 0x8804 (start []) (fun t => (t.pc, t.ds, t.x 15)) = some (0x102, some 0x10A, 0x82) := by
  decide +kernel
theorem test_jmp : run 0x7FC1 (start [(1, 0x83)]) (fun t => (t.pc, t.ds)) = some (0x102, some 0x106) := by
  decide +kernel
theorem test_call_o7 : run 0x7FEF (start [(15, 0x84)]) (fun t => (t.ds, t.x 15)) = some (some 0x108, 0x82) := by
  decide +kernel
theorem test_slot_goes_to_target : run 0x00A4 { start [] with ds := some 0x108 } (fun t => (t.pc, t.ds)) =
    some (0x108, none) := by decide +kernel
theorem test_skp0 : run 0x50EB (withHalf 0x102 0x0420 (start [(11, 0x80)])) (fun t => t.pc) = some 0x102 := by
  decide +kernel
theorem test_skp1_over_pfx : run 0x56AB (withHalf 0x102 0x981F (start [(11, 0x200000)])) (fun t => t.pc) =
    some 0x106 := by decide +kernel
theorem test_skprz : run 0x7ECB (withHalf 0x102 0x8802 (start [])) (fun t => t.pc) = some 0x104 := by decide +kernel
theorem test_skprnz : run 0x7F43 (withHalf 0x102 0x8802 (start [])) (fun t => t.pc) = some 0x102 := by
  decide +kernel

/-- The bits of row NVZC of 95 §3.7 CF15: bit n says whether SKPS with condition n skips. -/
def skips (f : BitVec 4) : Nat :=
  (List.range 14).foldr
    (fun n r => 2 * r + if run (0x7EE0 + n) (startWith false 63 6 f []) (fun t => t.pc) = some 0x104 then 1 else 0) 0

theorem test_skps_table :
    [0b0000, 0b0001, 0b0010, 0b0100, 0b1000, 0b1100, 0b1110, 0b1111].map skips =
      [0b10101001101010, 0b01101001101001, 0b01100101100110, 0b10010110101010, 0b10100110011010, 0b10011001011010,
        0b01010101010110, 0b01010101010101] := by
  decide +kernel

theorem test_save : run 0x7817 (start [(14, 0x2000), (8, 0xAA)]) (fun t => (t.cwp, t.x 14, t.x 30, t.x 24)) =
    some (5, 0x1FA4, 0x2000, 0xAA) := by decide +kernel
theorem test_save_underflow : run 0x7804 (withWord 4 0x300 (startWith true 63 1 0 [(14, 0x2000)]))
    (fun t => (t.pc, t.cwp, t.istatus, t.status, t.x 15)) = some (0x600, 0, 0xFE00, 0x0200, 0x81) := by
  decide +kernel
theorem test_restore : run 0x7DA0 (startWith false 63 5 0 [(24, 0xBB)]) (fun t => (t.cwp, t.x 8)) =
    some (6, 0xBB) := by decide +kernel
theorem test_restore_overflow : run 0x7DA0 (withWord 8 0x300 (startWith true 63 6 0 []))
    (fun t => (t.pc, t.cwp, t.istatus, t.status, t.x 15)) = some (0x600, 6, 0xFE70, 0x0460, 0x81) := by
  decide +kernel
theorem test_trap : run 0x7905 (withWord 0x14 0x200 (startWith true 63 6 0 []))
    (fun t => (t.pc, t.cwp, t.istatus, t.status, t.x 15)) = some (0x400, 5, 0xFE60, 0x0A50, 0x81) := by
  decide +kernel
theorem test_tret : run 0x7DCF { start [(15, 0x180)] with istatus := 0xFE33 } (fun t => (t.pc, t.status)) =
    some (0x300, 0xFE33) := by decide +kernel
theorem test_rdctl_wvalid : run 0x7F23 (prefixed 2 (start [])) (fun t => t.x 3) = some 0xC1 := by decide +kernel
theorem test_wrctl_status : run 0x7F01 (start [(1, 0xABCD8255)]) (fun t => (t.status, t.wstat)) =
    some (0x8255, true) := by decide +kernel
theorem test_wrctl_set_ie : run 0x7F00 (prefixed 9 (start [])) (fun t => (t.status, t.wstat)) =
    some (0xFE60, false) := by decide +kernel

/-- 95 §3.9 X1: the interrupt comes before the instruction at PC. -/
theorem test_interrupt :
    run 0x3000 { withWord 0x1C 0x280 (startWith true 63 6 0 []) with irqs := [some 7] }
      (fun t => (t.pc, t.cwp, t.istatus, t.status, t.x 15, t.irqs.length)) =
    some (0x500, 5, 0xFE60, 0x0E50, 0x80, 0) := by decide +kernel

/-- 95 §3.10: behaviours without an outcome. -/
theorem test_no_outcome :
    refusal 0x9000 (start []) = some .unassignedWord ∧
    refusal 0x9802 (prefixed 1 (start [])) = some .pfxAfterPfx ∧
    refusal 0x8001 { start [] with ds := some 0x104 } = some .forbiddenInSlot ∧
    refusal 0x7EEE (start []) = some .undefinedCondition ∧
    refusal 0x7F20 (prefixed 3 (start [])) = some .reservedControlRegister ∧
    refusal 0x3400 { start [] with wstat := true } = some .nopRequired ∧
    refusal 0x7800 (startWith false 63 0 0 []) = some .cwpBelowZero ∧
    refusal 0x7DA0 (startWith false 63 31 0 []) = some .cwpAboveMax ∧
    refusal 0x3200 (startWith false 63 7 0 []) = some .outsideRegisterFile ∧
    refusal 0x7000 (start []) = some .reservedOpcode ∧
    refusal 0x5B60 (start [(27, 0x11000)]) = some .absentAddress ∧
    refusal 0x5C1B (start [(0, 0x10000)]) = some .romStore := by
  decide +kernel

/-- A vector read from a peripheral and a skip before one go on, each using up one free value (20_memory.md R66, R72);
a skip before an absent address does not, though its test fails. -/
theorem test_reads_of_peripherals :
    after (exec (.trap 0) { start [] with cfg := { config with vecBase := 0x20000 } }) (fun t => (t.cwp, t.free)) =
      some (5, 1) ∧
    after (exec (.skprnz 3) { start [] with pc := 0x1FFFE }) (fun t => (t.pc, t.free)) = some (0x20000, 1) ∧
    after (exec (.skprnz 3) { start [] with pc := 0x10FFE }) (fun t => t.pc) = none := by
  decide +kernel

/-- The upper half of a word of an 8-bit peripheral is zero (20_memory.md R72), which as an instruction is ADD 0, 0. -/
theorem test_fetch_from_peripheral :
    let s : State := { start [] with pc := 0x20002 }
    step s = exec (.add 0 0) { s with free := 1 } := by
  intro s
  have hk : kindAt s.cfg 0x20002 2 = some (.peripheral 8) := by decide +kernel
  have hz : s.halfAt 0x20002 = 0 := by
    have hl := peripheralWord_lt s 8
    rw [halfAt_peripheral hk]
    apply BitVec.eq_of_toNat_eq
    rw [BitVec.extractLsb'_toNat, Nat.shiftRight_eq_div_pow, Nat.div_eq_of_lt (Nat.lt_of_lt_of_le hl (by decide))]
    rfl
  have hf : fetch s.sampled = .ok (0, { s with free := 1 }) :=
    readHalf_eq_ok.2 ⟨by decide +kernel, hz.symm, by decide +kernel⟩
  have hd : decodeWord 0 = .ok (.add 0 0) := by decide +kernel
  have hi : interruptTaken s = none := by decide +kernel
  simp only [step, hi, hf, hd]

/-- The host's entry: one opcode word as the first instruction after reset. -/
theorem test_fetch_word_after_reset :
    decodeTableWord 16 0x04D5 = some (.addi 21 6) ∧
    after (step (State.reset.withFetchWord 16 0x04D5)) (fun t => t.x 21) = some 6 := by
  decide +kernel

/-! ## Hypotheses that can be met

For every obligation with hypotheses, states and operands that meet them, at the ends of the ranges its clauses speak
of. `start` is at window 6 of 128 registers, so that %r31 is the last register of the file. -/

/-- The outcome is a next state. -/
abbrev goesOn (o : Host.Outcome State Fault Refusal) : Prop := ∃ t, o = .next t

theorem goesOn_of {o : Host.Outcome State Fault Refusal} (h : after o (fun _ => true) = some true) : goesOn o := by
  cases o with
  | next t => exact ⟨t, rfl⟩
  | fault r => simp [after] at h
  | refused r => simp [after] at h

/-- The hypotheses that nearly every statement about an instruction has: no WRCTL to STATUS before it, and these
registers inside the file. -/
abbrev ready (s : State) (rs : List Reg) : Prop := s.wstat = false ∧ ∀ r ∈ rs, s.visible r

/-- Window 7, the highest of the file, of which only the globals and the out registers exist. -/
def topWindow : State := startWith false 63 7 0 []

theorem witness_DecodeInvertsEncode :
    (Instr.ldp 16 0 0).wellFormed = true ∧ (Instr.stp 19 31 31).wellFormed = true ∧
    (Instr.pfx 0x7FF).wellFormed = true := by decide

theorem witness_EncodeInvertsDecode :
    decodeWord 0x0000 = .ok (.add 0 0) ∧ decodeWord 0xFFFF = .ok (.lds 255 31) := by decide +kernel

theorem witness_WindowsOverlap :
    (0 : BitVec 5) ≠ 31 ∧ phys 0 7 = phys 31 7 ∧ phys 31 8 = phys 30 24 ∧ phys 1 15 = phys 0 31 ∧
    phys 1 8 ≠ phys 0 8 ∧ phys 1 16 ≠ phys 0 31 := by decide

theorem witness_MemoryWriteThenRead :
    Memory.wf [] ∧ Memory.wf [(0, 1), (0x1FFFFFFFF, 0xFF)] := by decide +kernel

theorem witness_AddResult : ready (start [(0, 0x80000000)]) [0, 31] ∧ ready topWindow [0, 15] := by decide +kernel

theorem witness_SubtractResult : ready (start [(31, 1)]) [0, 31] ∧ ready topWindow [0, 15] := by decide +kernel

theorem witness_CompareResult : ready (start [(31, 1)]) [0, 31] ∧ ready topWindow [0, 15] := by decide +kernel

theorem witness_NegateResult : ready (start [(31, 0x80000000)]) [0, 31] := by decide +kernel

theorem witness_MultiplyResult :
    ready (start [(31, 0xFFFF)]) [0, 31] ∧ (start []).cfg.hasMul = true ∧ (start []).cfg.hasMstep = true := by
  decide +kernel

/-- %r0 before the first and before the last of the sixteen MSTEPs of 0xFFFF * 0xFFFF. -/
def mstepFirst : State := start [(0, 0xFFFF0000), (31, 0xFFFF)]
def mstepLast : State := start [(0, 0xFFFE8001), (31, 0xFFFF)]

theorem witness_MstepAdvancesProduct :
    ((mstepFirst.x 0).toNat = 0xFFFF % 2 ^ 16 * 2 ^ 16 + (mstepFirst.x 31).toNat * (0xFFFF / 2 ^ 16) ∧
      goesOn (exec (.mstep 31) mstepFirst)) ∧
    (mstepLast.x 0).toNat = 0xFFFF % 2 ^ 1 * 2 ^ 31 + (mstepLast.x 31).toNat * (0xFFFF / 2 ^ 1) ∧
      goesOn (exec (.mstep 31) mstepLast) :=
  ⟨⟨by decide +kernel, goesOn_of (by decide +kernel)⟩, by decide +kernel, goesOn_of (by decide +kernel)⟩

theorem witness_ShiftByRegister :
    ready (start [(0, 31), (31, 0x80000000)]) [0, 31] ∧ ready (start [(0, 32)]) [0, 31] := by decide +kernel

theorem witness_ShiftByImmediate : ready (start [(31, 0x80000001)]) [0, 31] := by decide +kernel

theorem witness_RotateThroughCarry :
    ready (start [(31, 0x80000001)]) [31] ∧ ready (startWith false 63 6 0b0001 [(31, 0x80000001)]) [31] := by
  decide +kernel

theorem witness_MoveResult : ready (start []) [0, 31] ∧ ready (prefixed 0x7FF (start [])) [0, 31] := by
  decide +kernel

theorem witness_PrefixResult : ready (start []) [] ∧ (start []).ds = none ∧ (start []).pfxd = false := by
  decide +kernel

theorem witness_PrefixLastsOneInstruction :
    goesOn (exec (.pfx 0x7FF) (start [])) ∧ goesOn (exec (.pfx 0) (start [])) ∧
    goesOn (exec (.movi 31 31) (prefixed 0x7FF (start []))) :=
  ⟨goesOn_of (by decide +kernel), goesOn_of (by decide +kernel), goesOn_of (by decide +kernel)⟩

theorem witness_LogicalResult :
    (ready (start []) [0, 31] ∧ (start []).pfxd = false) ∧
    (ready (prefixed 0 topWindow) [15] ∧ (prefixed 0 topWindow).pfxd = true ∧ ¬(prefixed 0 topWindow).visible 31) ∧
    (prefixed 0x7FF topWindow).pfxd = true := by decide +kernel

theorem witness_InvertAndBitResult : ready (start []) [0, 31] := by decide +kernel

theorem witness_ExtractResult : ready (start [(31, 0x80000003)]) [0, 31] := by decide +kernel

theorem witness_ExtendAndFillResult : ready (start [(31, 0xFFFF8080)]) [0, 31] := by decide +kernel

/-- The first word of RAM, the last word of RAM, the last word of ROM. -/
theorem witness_LoadResult :
    (ready (start []) (operandRegs false (.ld 0 31)) ∧ loadTarget (start []) (.ld 0 31) = some (0, 0) ∧
      (start []).readable 0 4) ∧
    (ready (start [(19, 0xFF80)]) (operandRegs false (.ldp 19 31 31)) ∧
      loadTarget (start [(19, 0xFF80)]) (.ldp 19 31 31) = some (0xFFFC, 31) ∧ (start []).readable 0xFFFC 4) ∧
    (ready (start [(14, 0x10C03)]) (operandRegs false (.lds 255 0)) ∧
      loadTarget (start [(14, 0x10C03)]) (.lds 255 0) = some (0x10FFC, 0) ∧ (start []).readable 0x10FFC 4) := by
  decide +kernel

theorem witness_StoreWordResult :
    ready (start [(31, 3), (19, 0xFF80), (14, 0xFC00)]) [0, 31, 19, 14] ∧ Memory.wf (start []).mem ∧
    kindAt config (wordAddress (3 + koff (start []))) 4 = some .ram ∧
    kindAt config (wordAddress (0xFF80 + poff (start []) 31)) 4 = some .ram ∧
    kindAt config (wordAddress (0xFC00 + (255 : BitVec 8).setWidth 32 * 4)) 4 = some .ram := by
  decide +kernel

theorem witness_PartialStoreResult :
    ready (start [(31, 0xFFFF), (14, 0xFC00)]) [0, 31, 14] ∧ Memory.wf (start []).mem ∧
    kindAt config (byteLaneAddress (0xFFFF + koff (start [])) 3) 1 = some .ram ∧
    kindAt config (byteLaneAddress (0 + koff (start [])) 0) 1 = some .ram ∧
    kindAt config (byteLaneAddress (0xFC00 + (1023 : BitVec 10).setWidth 32) 3) 1 = some .ram ∧
    kindAt config (halfLaneAddress (0xFFFF + koff (start [])) 1) 2 = some .ram ∧
    kindAt config (halfLaneAddress (0 + koff (start [])) 0) 2 = some .ram ∧
    kindAt config (halfLaneAddress (0xFC00 + (511 : BitVec 9).setWidth 32 * 2) 1) 2 = some .ram ∧
    (ready (startWith false 63 8 0 [(7, 0xFFFF)]) [0, 7] ∧ ¬(startWith false 63 8 0 []).visible 14) := by
  decide +kernel

/-- The first and the last register of the peripheral. -/
theorem witness_PeripheralAccess :
    (ready (start [(31, 0x20000)]) (operandRegs false (.ld 0 31)) ∧
      loadTarget (start [(31, 0x20000)]) (.ld 0 31) = some (0x20000, 0) ∧
      kindAt config 0x20000 4 = some (.peripheral 8)) ∧
    (ready (start [(31, 0x200FF)]) (operandRegs false (.st8d 31)) ∧
      storeTarget (start [(31, 0x200FF)]) (.st8d 31) = some (0x200FF, 1) ∧
      kindAt config 0x200FF 1 = some (.peripheral 8)) := by
  decide +kernel

/-- Past the end of ROM, the last word that 32 bits reach, and the first byte of ROM. -/
theorem witness_AccessStops :
    (ready (start [(31, 0x11000)]) (operandRegs false (.ld 0 31)) ∧
      loadTarget (start [(31, 0x11000)]) (.ld 0 31) = some (0x11000, 0) ∧ kindAt config 0x11000 4 = none) ∧
    (ready (start [(31, 0xFFFFFFFC)]) (operandRegs false (.st 0 31)) ∧
      storeTarget (start [(31, 0xFFFFFFFC)]) (.st 0 31) = some (0xFFFFFFFC, 4) ∧
      kindAt config 0xFFFFFFFC 4 = none) ∧
    (ready (start [(31, 0x10000)]) (operandRegs false (.st8s 31 0)) ∧
      storeTarget (start [(31, 0x10000)]) (.st8s 31 0) = some (0x10000, 1) ∧
      kindAt config 0x10000 1 = some .rom) := by
  decide +kernel

theorem witness_BranchDelayed : ready (start [(31, 0xFFFFFFFF)]) [0, 31] ∧ (start []).ds = none := by decide +kernel

theorem witness_CallLinks : ready (start [(31, 0xFFFFFFFF)]) [0, 15, 31] ∧ (start []).ds = none := by
  decide +kernel

theorem witness_DelaySlotReachesTarget :
    forbiddenInSlot (.wrctl 31) = false ∧ goesOn (exec (.wrctl 31) (start [])) ∧
    goesOn (exec (.wrctl 31) { start [] with ds := some 0x1FFFFFFFE }) :=
  ⟨rfl, goesOn_of (by decide +kernel), goesOn_of (by decide +kernel)⟩

theorem witness_ForbiddenInSlotStop :
    ready (start []) [] ∧ ({ start [] with ds := some 0 } : State).ds.isSome = true ∧
    [Instr.br 0, .bsr 0, .jmp 0, .call 0, .pfx 0, .skp0 0 0, .skp1 0 0, .skprz 0, .skprnz 0, .skps 0, .tret 0,
      .trap 0].all forbiddenInSlot = true := by
  decide +kernel

/-- Before the last half-word of RAM, the first of the peripheral, and the first after ROM; the five skips, taken and
not taken. -/
theorem witness_SkipResult :
    (start []).readable (0xFFFC + 2) 2 ∧ (start []).present (0x1FFFE + 2) 2 ∧ kindAt config (0x10FFE + 2) 2 = none ∧
    (start []).ds = none ∧
    ready (start []) (operandRegs false (.skprz 31)) ∧
    skipTest (start []) (.skp0 31 31) = some true ∧ skipTest (start []) (.skp1 31 0) = some false ∧
    skipTest (start []) (.skprz 31) = some true ∧ skipTest (start []) (.skprnz 31) = some false ∧
    skipTest (start []) (.skps 0) = some false ∧ skipTest (start []) (.skps 13) = some true ∧
    isPfx 0x9800 = true ∧ isPfx 0x9FFF = true ∧ isPfx 0x97FF = false ∧ isPfx 0xA000 = false := by
  decide +kernel

theorem witness_ConditionMeaning :
    goesOn (exec (.cmp 0 31) (start [(31, 0x80000000)])) ∧ goesOn (exec (.cmp 0 0) (start [])) :=
  ⟨goesOn_of (by decide +kernel), goesOn_of (by decide +kernel)⟩

/-- The small machine with its vector table where there is nothing, and in the peripheral. -/
def noVectors (s : State) : State := { s with cfg := { config with vecBase := 0x11000 } }
def peripheralVectors (s : State) : State := { s with cfg := { config with vecBase := 0x20000 } }

/-- With a decrement from the lowest window that has one, without one at CWP = 0, the refused cases, and the first and
last vector in RAM, in a peripheral and nowhere. -/
theorem witness_ExceptionEntry :
    (startWith true 63 1 0 []).cwp ≠ 0 ∧ phys ((startWith true 63 1 0 []).cwp - 1) 15 < 128 ∧
    (startWith true 63 0 0 []).cwp = 0 ∧ phys 0 15 < (startWith true 63 0 0 []).regs.length ∧
    (startWith true 63 9 0 []).regs.length ≤ phys ((startWith true 63 9 0 []).cwp - 1) 15 ∧
    (start []).readable (vectorAddress (start []) 0) 4 ∧ (start []).readable (vectorAddress (start []) 63) 4 ∧
    kindAt config (vectorAddress (peripheralVectors (start [])) 0) 4 = some (.peripheral 8) ∧
    kindAt config (vectorAddress (peripheralVectors (start [])) 63) 4 = some (.peripheral 8) ∧
    kindAt config (vectorAddress (noVectors (start [])) 0) 4 = none ∧
    kindAt config (vectorAddress (noVectors (start [])) 63) 4 = none := by
  decide +kernel

/-- SAVE: away from the limit, and at it with IE = 0 and with IPRI = 1. RESTORE: the same, with IPRI = 2. -/
theorem witness_WindowMovesPlain :
    (ready (startWith true 63 2 0 []) [14] ∧ (startWith true 63 2 0 []).cwp ≠ (startWith true 63 2 0 []).loLimit) ∧
    (ready (startWith false 63 1 0 []) [14] ∧ (startWith false 63 1 0 []).cwp = (start []).loLimit) ∧
    (ready (startWith true 1 1 0 []) [14] ∧ ¬(1 : ExcNum) < (startWith true 1 1 0 []).ipri) ∧
    (startWith true 63 5 0 []).cwp ≠ (start []).hiLimit ∧ (startWith false 63 6 0 []).cwp = (start []).hiLimit ∧
    ¬(2 : ExcNum) < (startWith true 2 6 0 []).ipri := by
  decide +kernel

theorem witness_SaveUnderflow :
    let s := startWith true 2 1 0 []
    ready s [14] ∧ s.cwp ≠ 0 ∧ s.cwp = s.loLimit ∧ s.ie = true ∧ (1 : ExcNum) < s.ipri ∧
      s.present (vectorAddress s 1) 4 ∧ kindAt config (vectorAddress (noVectors s) 1) 4 = none := by
  decide +kernel

theorem witness_RestoreOverflow :
    let s := startWith true 3 6 0 []
    ready s [15] ∧ s.cwp ≠ 31 ∧ s.cwp = s.hiLimit ∧ s.ie = true ∧ (2 : ExcNum) < s.ipri ∧
      s.present (vectorAddress s 2) 4 ∧ kindAt config (vectorAddress (noVectors s) 2) 4 = none := by
  decide +kernel

theorem witness_TrapEntry :
    let s := startWith false 0 1 0 []
    ready s [] ∧ s.ds = none ∧ s.cwp ≠ 0 ∧ phys (s.cwp - 1) 15 < s.regs.length ∧
      s.present (vectorAddress s 0) 4 ∧ s.present (vectorAddress s 63) 4 ∧
      kindAt config (vectorAddress (noVectors s) 0) 4 = none := by
  decide +kernel

theorem witness_TrapReturn : ready (start [(31, 0xFFFFFFFF)]) [0, 31] ∧ (start []).ds = none := by decide +kernel

theorem witness_TrapThenReturn :
    (start []).pc.toNat % 2 = 0 ∧ goesOn (exec (.trap 0) (start [])) ∧
    goesOn (exec (.trap 63) (startWith true 0 1 0b1111 [(31, 1)])) :=
  ⟨by decide +kernel, goesOn_of (by decide +kernel), goesOn_of (by decide +kernel)⟩

theorem witness_ReadControlResult :
    ready (start []) [0, 31] ∧ (start []).k = 0 ∧ (prefixed 1 (start [])).k = 1 ∧ (prefixed 2 (start [])).k = 2 := by
  decide +kernel

theorem witness_WriteControlResult :
    ready (start [(31, 0xFFFFFFFF)]) [0, 31] ∧ (start []).k = 0 ∧ (prefixed 1 (start [])).k = 1 ∧
    (prefixed 2 (start [])).k = 2 := by
  decide +kernel

theorem witness_InterruptEnableRegisters :
    ready (start []) [0, 31] ∧ (prefixed 8 (start [])).k = 8 ∧ (prefixed 9 (start [])).k = 9 := by
  decide +kernel

theorem witness_NopAfterStatusWrite :
    let s : State := { start [] with wstat := true }
    s.wstat = true ∧ s.visible 0 ∧ goesOn (exec (.mov 0 0) s) :=
  ⟨rfl, by decide +kernel, goesOn_of (by decide +kernel)⟩

/-- At the ends of the ranges; and, for the forms that may stand there, in a delay slot. -/
theorem witness_UndefinedFormsStop :
    (ready (prefixed 3 (start [])) [0, 31] ∧ (start []).ds = none) ∧ (prefixed 7 (start [])).k.toNat = 7 ∧
    (prefixed 10 (start [])).k.toNat = 10 ∧ (prefixed 2047 (start [])).k.toNat = 2047 ∧
    (prefixed 0 (start [])).pfxd = true ∧
    (ready (startWith false 63 0 0 []) [0, 31] ∧ (startWith false 63 0 0 []).cwp = 0) ∧
    (ready (startWith false 63 31 0 []) [0, 7] ∧ (startWith false 63 31 0 []).cwp = 31) ∧
    ready { start [] with cfg := { config with hasMul := false, hasMstep := false } } [0, 31] ∧
    ready { startWith false 63 0 0 [] with ds := some 0x200 } [0, 31] := by
  decide +kernel

/-- Registers of the current window; and those of the other one: SAVE and RESTORE with their exceptions, TRAP. -/
theorem witness_InsideRegisterFile :
    (goesOn (exec (.mov 0 15) topWindow) ∧ usedRegisters topWindow (.mov 0 15) = [0, 127] ∧ ¬topWindow.visible 16) ∧
    (goesOn (exec (.save 0) (startWith true 63 1 0 [])) ∧
      usedRegisters (startWith true 63 1 0 []) (.save 0) = [30, 14, 15]) ∧
    (goesOn (exec .restore (startWith true 63 6 0 [])) ∧
      usedRegisters (startWith true 63 6 0 []) .restore = [111]) ∧
    goesOn (exec (.trap 0) (start [])) ∧ usedRegisters (start []) (.trap 0) = [95] :=
  ⟨⟨goesOn_of (by decide +kernel), by decide +kernel, by decide +kernel⟩,
    ⟨goesOn_of (by decide +kernel), by decide +kernel⟩, ⟨goesOn_of (by decide +kernel), by decide +kernel⟩,
    goesOn_of (by decide +kernel), by decide +kernel⟩

/-- IE, IPRI and CWP changed by SET_IE, TRAP and SAVE; the flags by CMP. -/
theorem witness_StatusWriters :
    after (exec (.wrctl 0) (prefixed 9 (start []))) (fun t => t.ie) = some (!(start []).ie) ∧
    after (exec (.trap 0) (start [])) (fun t => decide (t.ipri ≠ (start []).ipri)) = some true ∧
    after (exec (.save 0) (start [])) (fun t => decide (t.cwp ≠ (start []).cwp)) = some true ∧
    after (exec (.cmp 0 0) (start [])) (fun t => decide (t.flags ≠ (start []).flags)) = some true := by
  decide +kernel

theorem witness_SystemRegisterWriters :
    after (exec (.wrctl 31) (prefixed 1 (start [(31, 1)]))) (fun t => t.istatus) = some 1 ∧
    after (exec (.trap 63) (start [])) (fun t => t.istatus) = some (start []).status ∧
    after (exec (.save 0) (startWith true 63 1 0 [])) (fun t => decide (t.istatus ≠ 0)) = some true ∧
    after (exec (.restore) (startWith true 63 6 0 [])) (fun t => decide (t.istatus ≠ 0)) = some true ∧
    after (exec (.wrctl 31) (prefixed 2 (start [(31, 1)]))) (fun t => t.wvalid) = some 1 := by
  decide +kernel

theorem witness_OnlyStoresChangeRam :
    after (exec (.st 0 31) (start [(0, 1)])) (fun t => t.byte 0) = some 1 ∧ (start [(0, 1)]).byte 0 = 0 ∧
    after (exec (.st8d 31) (start [(0, 0xFF000000), (31, 0xFFFF)])) (fun t => t.byte 0xFFFF) = some 0xFF := by
  decide +kernel

/-- No request, and a request masked by IE, by an equal IPRI, by a prefix and by a pending branch. -/
theorem witness_StepRunsDecoded :
    ((start []).uninterrupted ∧
      ({ startWith false 63 6 0 [] with irqs := [some 0] } : State).uninterrupted ∧
      ({ startWith true 62 6 0 [] with irqs := [some 62] } : State).uninterrupted ∧
      (prefixed 0 { startWith true 63 6 0 [] with irqs := [some 0] }).uninterrupted ∧
      ({ startWith true 63 6 0 [] with irqs := [some 0], ds := some 0 } : State).uninterrupted) ∧
    (start []).readable (start []).pc 2 ∧
    decodeWord ((withHalf 0x100 0x3000 (start [])).mem.half 0x100) = .ok (.mov 0 0) ∧
    (start []).present 0x20002 2 :=
  ⟨⟨interruptTaken_eq_none.1 (by decide +kernel), interruptTaken_eq_none.1 (by decide +kernel),
    interruptTaken_eq_none.1 (by decide +kernel), interruptTaken_eq_none.1 (by decide +kernel),
    interruptTaken_eq_none.1 (by decide +kernel)⟩, by decide +kernel, by decide +kernel, by decide +kernel⟩

theorem witness_UnfetchableStops :
    (start []).uninterrupted ∧
    decodeWord ((withHalf 0x100 0x9000 (start [])).mem.half 0x100) = .error .unassigned ∧
    decodeWord ((withHalf 0x100 0x7DA1 (start [])).mem.half 0x100) = .error .fixedZero ∧
    (start []).present 0x100 2 ∧ kindAt config 0x11000 2 = none ∧ kindAt config 0x1FFFFFFFE 2 = none :=
  ⟨interruptTaken_eq_none.1 (by decide +kernel), by decide +kernel⟩

theorem witness_InterruptEntry :
    let s : State := { startWith true 63 1 0 [] with irqs := [some 62] }
    s.irqs.head? = some (some (62 : ExcNum)) ∧ s.ie = true ∧ (62 : ExcNum).toNat < s.ipri.toNat ∧ s.pfxd = false ∧
      s.ds = none ∧ s.cwp ≠ 0 ∧ phys (s.cwp - 1) 15 < s.regs.length ∧ s.present (vectorAddress s 62) 4 ∧
      kindAt config (vectorAddress (noVectors s) 62) 4 = none := by
  decide +kernel

theorem witness_StepKeepsInvariant : (start []).Inv ∧ goesOn (step ((start []).withFetchWord 16 0x9FFF)) ∧
    goesOn (step (start [])) := by
  refine ⟨?_, goesOn_of (by decide +kernel), goesOn_of (by decide +kernel)⟩
  constructor
  all_goals first
    | exact fun d h => nomatch h
    | decide +kernel

theorem witness_ResetWindowLimits :
    let s : State := prefixed 2 { start [] with cfg := { config with wvalidWritable := false } }
    s.cfg.wvalidWritable = false ∧ goesOn (step (s.withFetchWord 16 0x7F00)) :=
  ⟨rfl, goesOn_of (by decide +kernel)⟩

theorem witness_ResetState : config.legal ∧ Memory.wf [(0x1FFFFFFFF, 1)] := by decide +kernel

end Sys2Proof.Tests
end

/-! ## CLR_IE and SET_IE (10_state.md R43, R44) -/

section
namespace Sys2Proof.Machine

/-! ### The accessors of STATUS after IE is replaced -/

@[simp] theorem State.setIe_ie (s : State) (b : Bool) : (s.setIe b).ie = b := by simp [State.ie]
@[simp] theorem State.setIe_ipri (s : State) (b : Bool) : (s.setIe b).ipri = s.ipri := by simp [State.ipri]
@[simp] theorem State.setIe_cwp (s : State) (b : Bool) : (s.setIe b).cwp = s.cwp := by simp [State.cwp]
@[simp] theorem State.setIe_flags (s : State) (b : Bool) : (s.setIe b).flags = s.flags := by simp [State.flags]

/-! ### The two control registers -/

/-- The control register whose write makes IE be `b`: SET_IE (K = 9) or CLR_IE (K = 8). -/
abbrev ieControl (b : Bool) : BitVec 11 := if b then 9 else 8

/-- A write ignores its value. -/
theorem writeControl_ieControl (s : State) (b : Bool) (v : Half) :
    writeControl s (ieControl b) v = .ok (s.setIe b) := by
  cases b <;> rfl

/-- A read gives a free value and uses it up. -/
theorem readControl_ieControl (s : State) (b : Bool) :
    readControl s (ieControl b) = .ok (Config.freeWord s.free, { s with free := s.free + 1 }) := by
  cases b <;> rfl

/-! ### WRCTL and RDCTL where control register K answers -/

theorem exec_wrctl_ok {s u : State} {a : Reg} (hw : s.wstat = false) (ha : s.visible a)
    (hu : writeControl s s.k ((s.x a).extractLsb' 0 16) = .ok u) :
    exec (.wrctl a) s = .next { u.retire with wstat := decide (s.k = 0) } := by
  change execWrctl a s = _
  simp only [execWrctl, requireNoWstat_eq_ok (u := ()).2 hw, readReg_visible ha, hu, except_ok_bind, except_pure,
    answer_ok]

theorem exec_rdctl_ok {s u : State} {a : Reg} {v : Word} (hw : s.wstat = false) (hv : readControl s s.k = .ok (v, u))
    (ha : u.visible a) : exec (.rdctl a) s = .next (afterWrite u a v) :=
  ordinary_ok hw (by rw [hv, except_ok_bind]; exact writeReg_visible ha)

/-! ### CLR_IE and SET_IE written and read -/

/-- WRCTL to CLR_IE or SET_IE is no write to STATUS: it requires no NOP. -/
theorem exec_wrctl_ieControl {s : State} {a : Reg} {b : Bool} (hw : s.wstat = false) (ha : s.visible a)
    (hk : s.k = ieControl b) : exec (.wrctl a) s = .next (s.setIe b).retire := by
  have hk0 : s.k ≠ 0 := by rw [hk]; cases b <;> decide
  rw [exec_wrctl_ok hw ha (hk ▸ writeControl_ieControl s b _), decide_eq_false hk0]
  rfl

theorem exec_rdctl_ieControl {s : State} {a : Reg} {b : Bool} (hw : s.wstat = false) (ha : s.visible a)
    (hk : s.k = ieControl b) :
    exec (.rdctl a) s = .next (afterWrite { s with free := s.free + 1 } a (Config.freeWord s.free)) :=
  exec_rdctl_ok hw (hk ▸ readControl_ieControl s b) ha

/-- IE alone changes, and the step ends as usual. -/
theorem wrctl_ieControl_completes {s : State} {a : Reg} {b : Bool} (hw : s.wstat = false) (ha : s.visible a)
    (hk : s.k = ieControl b) :
    Completes (exec (.wrctl a) s) fun t => t.ie = b ∧ t.ipri = s.ipri ∧ t.cwp = s.cwp ∧ t.flags = s.flags ∧
      t.regs = s.regs ∧ EndsAt s t s.nextPc ∧ KeepsSystem s t ∧ t.free = s.free ∧ KeepsMemory s t :=
  ⟨_, exec_wrctl_ieControl hw ha hk, by simp, by simp, by simp, by simp, rfl, ⟨rfl, rfl, rfl, rfl, rfl⟩,
    ⟨rfl, rfl, rfl, rfl⟩, rfl, fun _ => rfl⟩

/-- Register A alone changes, to a value of which nothing is said, and the step ends as usual. -/
theorem rdctl_ieControl_completes {s : State} {a : Reg} {b : Bool} (hw : s.wstat = false) (ha : s.visible a)
    (hk : s.k = ieControl b) :
    Completes (exec (.rdctl a) s) fun t =>
      WritesReg s t a (t.x a) ∧ t.status = s.status ∧ EndsAt s t s.nextPc ∧ KeepsSystem s t ∧ KeepsMemory s t := by
  refine ⟨_, exec_rdctl_ieControl hw ha hk, ?_, rfl, ⟨rfl, rfl, rfl, rfl, rfl⟩, ⟨rfl, rfl, rfl, rfl⟩, fun _ => rfl⟩
  have hr : WritesReg s (afterWrite { s with free := s.free + 1 } a (Config.freeWord s.free)) a
      (Config.freeWord s.free) := writesReg_set _ ha rfl
  rwa [hr.x rfl]

/-- Settles O46: K = 8 is CLR_IE and K = 9 is SET_IE. -/
theorem interruptEnableRegisters : Obligations.InterruptEnableRegisters := by
  intro s a hw ha
  refine ⟨?clear, ?set, ?read⟩
  case clear => exact wrctl_ieControl_completes (b := false) hw ha
  case set => exact wrctl_ieControl_completes (b := true) hw ha
  case read =>
    rintro (hk | hk)
    · exact rdctl_ieControl_completes (b := false) hw ha hk
    · exact rdctl_ieControl_completes (b := true) hw ha hk

end Sys2Proof.Machine
end

/-! ## Multi-byte reads and writes of memory (20_memory.md R61, R62) -/

section
namespace Sys2Proof.Machine

/-! ### Where a write puts its cell

A write at or above 2^33 leaves `Memory.wf`, while O7 takes any address and needs the bytes of one value written in
turn. The order of the cells, which every write keeps, is what a read after a write rests on. -/

/-- The cells stand at strictly rising addresses. -/
abbrev Memory.Rising (m : Memory) : Prop := m.Pairwise fun c d => c.1 < d.1

theorem Memory.put_cons_of_lt {c : Host.Cell} {a : Nat} (m : Memory) (v : Byte) (h : a < c.1) :
    Memory.put (c :: m) a v = Memory.put [] a v ++ c :: m := by
  simp only [Memory.put, if_pos h]; split <;> rfl

theorem Memory.put_cons_same (c : Host.Cell) (m : Memory) (v : Byte) :
    Memory.put (c :: m) c.1 v = Memory.put [] c.1 v ++ m := by
  simp only [Memory.put, lt_irrefl, if_false, if_true]; split <;> rfl

theorem Memory.put_cons_of_gt {c : Host.Cell} {a : Nat} (m : Memory) (v : Byte) (h : c.1 < a) :
    Memory.put (c :: m) a v = c :: Memory.put m a v := by
  rw [Memory.put, if_neg h.not_gt, if_neg h.ne']

/-- A write splits the memory at its address: the cells below, the cell written (none for an unlisted byte), and the
cells above. -/
theorem Memory.put_eq_append {m : Memory} (h : m.Rising) (a : Nat) (v : Byte) :
    ∃ low high : Memory, Memory.Rising (low ++ (a, v) :: high) ∧ m.put a v = low ++ Memory.put [] a v ++ high := by
  induction m with
  | nil => exact ⟨[], [], by simp, by simp⟩
  | cons c m ih =>
    obtain ⟨hc, hm⟩ := List.pairwise_cons.1 h
    rcases Nat.lt_trichotomy a c.1 with hlt | rfl | hgt
    · have hall : ∀ d ∈ c :: m, a < d.1 := List.forall_mem_cons.2 ⟨hlt, fun d hd => hlt.trans (hc d hd)⟩
      exact ⟨[], c :: m, List.pairwise_cons.2 ⟨hall, h⟩, Memory.put_cons_of_lt m v hlt⟩
    · exact ⟨[], m, List.pairwise_cons.2 ⟨hc, hm⟩, Memory.put_cons_same c m v⟩
    · obtain ⟨low, high, hrise, hput⟩ := ih hm
      have hwritten : ∀ d ∈ Memory.put m a v, c.1 < d.1 := fun d hd => by
        rcases Memory.mem_put hd with hd | ⟨rfl, -⟩
        · exact hc d hd
        · exact hgt
      have hall : ∀ d ∈ low ++ (a, v) :: high, c.1 < d.1 := by
        simp only [hput, List.mem_append] at hwritten
        simp only [List.mem_append, List.mem_cons]
        rintro d (hd | rfl | hd)
        · exact hwritten d (.inl (.inl hd))
        · exact hgt
        · exact hwritten d (.inr hd)
      refine ⟨c :: low, high, List.pairwise_cons.2 ⟨hall, hrise⟩, ?_⟩
      rw [Memory.put_cons_of_gt m v hgt, hput]; rfl

/-- A write into the empty memory lists its cell or nothing. -/
theorem Memory.put_nil_sublist (a : Nat) (v : Byte) : (Memory.put [] a v).Sublist [(a, v)] := by
  unfold Memory.put; split <;> simp

/-- A write keeps the addresses rising. -/
theorem Memory.Rising.put {m : Memory} (h : m.Rising) (a : Nat) (v : Byte) : (m.put a v).Rising := by
  obtain ⟨low, high, hrise, hput⟩ := Memory.put_eq_append h a v
  rw [hput, List.append_assoc]
  exact hrise.sublist (((Memory.put_nil_sublist a v).append_right high).append_left low)

/-- Cells at other addresses are passed over by a read. -/
theorem Memory.get_append_of_ne (low m : Memory) {a : Nat} (h : ∀ c ∈ low, c.1 ≠ a) :
    Memory.get (low ++ m) a = m.get a := by
  induction low with
  | nil => rfl
  | cons c low ih =>
    obtain ⟨hc, hlow⟩ := List.forall_mem_cons.1 h
    rw [List.cons_append, Memory.get, if_neg hc, ih hlow]

/-- A write is read back, also after writes that `Memory.get_put_same` shuts out. -/
theorem Memory.Rising.get_put_same {m : Memory} (h : m.Rising) (a : Nat) (v : Byte) : (m.put a v).get a = v := by
  obtain ⟨low, high, hrise, hput⟩ := Memory.put_eq_append h a v
  obtain ⟨-, hrest, hlow⟩ := List.pairwise_append.1 hrise
  have hne : ∀ c ∈ low, c.1 ≠ a := fun c hc => (hlow c hc (a, v) (by simp)).ne
  have hhigh := (List.pairwise_cons.1 hrest).1
  rw [hput, List.append_assoc, Memory.get_append_of_ne low _ hne]
  by_cases hv : v = Memory.unlisted
  · simpa [Memory.put, hv] using Memory.get_of_below high a hhigh
  · simp [Memory.put, Memory.get, hv]

/-! ### Writes of half-words and words -/

theorem Memory.Rising.putHalf {m : Memory} (h : m.Rising) (a : Nat) (v : Half) : (m.putHalf a v).Rising :=
  (h.put _ _).put _ _

theorem Memory.Rising.get_putHalf_same {m : Memory} (h : m.Rising) (a : Nat) (v : Half) {k : Nat} (hk : k < 2) :
    (m.putHalf a v).get (a + k) = v.extractLsb' (8 * k) 8 := by
  match k, hk with
  | 0, _ => exact (Memory.get_put_other _ _ (by omega)).trans (h.get_put_same _ _)
  | 1, _ => exact (h.put _ _).get_put_same _ _

/-- A byte of a half-word of a word is a byte of the word. -/
theorem byte_extract_half (v : Word) {s k : Nat} (hk : k < 2) :
    (v.extractLsb' s 16).extractLsb' (8 * k) 8 = v.extractLsb' (s + 8 * k) 8 := by
  ext i hi
  have hin : 8 * k + i < 16 := by omega
  simp [hin, Nat.add_assoc]

/-- A word write is a write of its two half-words. -/
theorem Memory.putWord_eq_putHalf (m : Memory) (a : Nat) (v : Word) :
    m.putWord a v = (m.putHalf a (v.extractLsb' 0 16)).putHalf (a + 2) (v.extractLsb' 16 16) := by
  have hlow (s : Nat) := byte_extract_half v (s := s) (k := 0) (by decide)
  have hhigh (s : Nat) := byte_extract_half v (s := s) (k := 1) (by decide)
  simp only [Nat.mul_zero, Nat.mul_one] at hlow hhigh
  simp only [Memory.putWord, Memory.putHalf, hlow, hhigh]

theorem Memory.Rising.get_putWord_same {m : Memory} (h : m.Rising) (a : Nat) (v : Word) {k : Nat} (hk : k < 4) :
    (m.putWord a v).get (a + k) = v.extractLsb' (8 * k) 8 := by
  rw [Memory.putWord_eq_putHalf]
  rcases Nat.lt_or_ge k 2 with hlow | hhigh
  · rw [Memory.get_putHalf_other _ _ (by omega), h.get_putHalf_same _ _ hlow, byte_extract_half v hlow, Nat.zero_add]
  · obtain ⟨j, rfl⟩ := Nat.exists_eq_add_of_le hhigh
    have hj : j < 2 := by omega
    rw [← Nat.add_assoc, (h.putHalf _ _).get_putHalf_same _ _ hj, byte_extract_half v hj, Nat.mul_add]

/-! ### Little-endian reads -/

theorem Memory.toNat_half (m : Memory) (a : Nat) :
    (m.half a).toNat = 2 ^ 8 * (m.get (a + 1)).toNat + (m.get a).toNat := by
  rw [Memory.half, toNat_append_add, Nat.mul_comm]

theorem Memory.toNat_word (m : Memory) (a : Nat) :
    (m.word a).toNat = 2 ^ 24 * (m.get (a + 3)).toNat + 2 ^ 16 * (m.get (a + 2)).toNat +
      2 ^ 8 * (m.get (a + 1)).toNat + (m.get a).toNat := by
  simp only [Memory.word, toNat_append_add]
  omega

/-! ### The obligations -/

/-- Settles O7: of the canonical form only the order of the cells is used. -/
theorem memoryWriteThenRead : Obligations.MemoryWriteThenRead := by
  rintro m a ⟨hm : m.Rising, -⟩
  refine ⟨fun v => ⟨?byte, ?byteFrame⟩, fun v => ⟨?half, ?halfFrame⟩, fun v => ⟨?word, ?wordFrame⟩⟩
  case byte => exact hm.get_put_same a v
  case half => exact fun k hk => hm.get_putHalf_same a v hk
  case word => exact fun k hk => hm.get_putWord_same a v hk
  case byteFrame => exact fun b hb => Memory.get_put_other m v hb
  case halfFrame => exact fun b hb => Memory.get_putHalf_other m v hb
  case wordFrame => exact fun b hb => Memory.get_putWord_other m v hb

/-- Settles O6: the bytes of a read are concatenated from the highest address down. -/
theorem memoryReadsLittleEndian : Obligations.MemoryReadsLittleEndian :=
  fun m a => ⟨m.toNat_half a, m.toNat_word a⟩

end Sys2Proof.Machine
end

/-! ## AND, ANDN, OR, XOR (43_logical_bit.md R180) -/

section
namespace Sys2Proof.Machine

/-- The model's immediate, a concatenation, is K : IMM5 as a number (30_encoding.md R110). -/
theorem immediate_eq_constant (s : State) (imm5 : BitVec 5) : immediate s imm5 = constant s imm5 := by
  apply BitVec.eq_of_toNat_eq
  rw [immediate, imm16, constant, BitVec.toNat_setWidth, toNat_append_add, BitVec.toNat_ofNat]
  omega

/-- The second operand, chosen by PFXD: register B need not exist after PFX. -/
theorem logicOperand_ok {s : State} {b : BitVec 5} (hb : s.pfxd = false → s.visible b) :
    logicOperand s b = .ok (if s.pfxd then constant s b else s.x b) := by
  rw [logicOperand_eq_ok]
  cases hp : s.pfxd with
  | true => exact .inl ⟨rfl, (immediate_eq_constant s b).symm⟩
  | false => exact .inr ⟨rfl, hb hp, rfl⟩

/-- N and Z of a logical result as statements about its number. -/
theorem logicFlags_eq (old : Flags) (r : Word) :
    logicFlags old r = { old with n := decide (2 ^ 31 ≤ r.toNat), z := decide (r = 0) } := by
  rw [logicFlags, BitVec.msb_eq_decide, beq_eq_decide]

theorem logical_completes {s : State} {a : Reg} {b : BitVec 5} {y : Word} (f : Word → Word → Word)
    (hw : s.wstat = false) (ha : s.visible a) (hy : logicOperand s b = .ok y) :
    Completes (logical s a b f) fun t => ResultIs s t a (f (s.x a) y)
      { s.flags with n := decide (2 ^ 31 ≤ (f (s.x a) y).toNat), z := decide (f (s.x a) y = 0) } :=
  ⟨_, logical_eq_next.2 ⟨hw, ha, y, hy, rfl⟩, logicFlags_eq s.flags _ ▸ afterWriteFlags_resultIs _ _ ha⟩

/-- Settles O21: the four instructions are `logical` over their operations. -/
theorem logicalResult : Obligations.LogicalResult := by
  intro s a b hw ha hb
  have hy := logicOperand_ok hb
  refine ⟨?and, ?andn, ?or, ?xor⟩
  case and => exact logical_completes (fun x y => x &&& y) hw ha hy
  case andn => exact logical_completes (fun x y => x &&& ~~~y) hw ha hy
  case or => exact logical_completes (fun x y => x ||| y) hw ha hy
  case xor => exact logical_completes (fun x y => x ^^^ y) hw ha hy

end Sys2Proof.Machine
end

/-! ## Reset, and a read-only WVALID (70_reset_and_hazards.md R360, R361; 10_state.md R42) -/

section
namespace Sys2Proof.Machine

/-! ### The fields of the reset state -/

/-- REGFILE_SIZE / 16 - 2 fits the five bits of a window pointer. -/
theorem RegfileSize.hiReset_toNat (r : RegfileSize) : r.hiReset.toNat = r.size / 16 - 2 := by
  cases r <;> rfl

@[simp] theorem State.resetWith_ie (c : Config) (image : Memory) : (State.resetWith c image).ie = false :=
  statusIE_mkStatus ..

@[simp] theorem State.resetWith_ipri (c : Config) (image : Memory) : (State.resetWith c image).ipri = 63 :=
  statusIPRI_mkStatus ..

@[simp] theorem State.resetWith_cwp (c : Config) (image : Memory) :
    (State.resetWith c image).cwp = c.regfile.hiReset := statusCWP_mkStatus ..

@[simp] theorem State.resetWith_hiLimit (c : Config) (image : Memory) :
    (State.resetWith c image).hiLimit = c.regfile.hiReset := wvalidHi_mkWvalid ..

@[simp] theorem State.resetWith_loLimit (c : Config) (image : Memory) : (State.resetWith c image).loLimit = 1 :=
  wvalidLo_mkWvalid ..

/-! ### Nothing is taken while IE = 0 (60_exceptions.md R315, R317) -/

theorem interruptTaken_of_ie_false {s : State} (h : s.ie = false) : interruptTaken s = none :=
  interruptTaken_eq_none.2 fun _ _ => .inl h

theorem windowException_of_ie_false {s : State} (h : s.ie = false) (atLimit : Bool) (e : ExcNum) (dec : Bool) :
    windowException s atLimit e dec = .ok s := by
  refine windowException_eq_ok.2 (.inr ⟨?_, rfl⟩)
  rintro ⟨-, hie, -⟩
  exact absurd hie (by simp [h])

/-! ### What a step can be -/

/-- A step with a next state enters an interrupt, or runs the instruction fetched at PC. -/
theorem step_next {s t : State} (h : step s = .next t) :
    (∃ n, takeException s.sampled n s.pc true = .ok t) ∨
      ∃ i, decodeWord (s.sampled.halfAt s.pc) = .ok i ∧ exec i (s.sampled.afterRead s.pc 2) = .next t := by
  unfold step at h
  split at h
  case h_1 n _ => exact .inl ⟨n, answer_eq_next.1 h⟩
  case h_2 =>
    split at h
    case h_1 => cases h
    case h_2 w u hf =>
      obtain ⟨-, rfl, rfl⟩ := readHalf_eq_ok.1 hf
      split at h
      case h_1 => cases h
      case h_2 i hi => exact .inr ⟨i, hi, h⟩

/-! ### What leaves WVALID as it is -/

theorem takeException_wvalid {s t : State} {n : ExcNum} {ret : Addr} {dec : Bool}
    (h : takeException s n ret dec = .ok t) : t.wvalid = s.wvalid := (takeException_entered h).wvalid

theorem windowException_wvalid {s t : State} {e : ExcNum} {dec atLimit : Bool}
    (h : windowException s atLimit e dec = .ok t) : t.wvalid = s.wvalid := by
  obtain ⟨-, hx⟩ | ⟨-, rfl⟩ := windowException_eq_ok.1 h
  · exact takeException_wvalid hx
  · rfl

theorem Stored.wvalid {s t : State} {addr : Addr} {n : Nat} {write : Memory → Memory}
    (h : Stored s t addr n write) : t.wvalid = s.wvalid := by
  obtain ⟨-, rfl⟩ | ⟨-, rfl⟩ := h <;> rfl

theorem Loaded.wvalid {s t : State} {a : Reg} {addr : Addr} (h : Loaded s t a addr) : t.wvalid = s.wvalid := by
  obtain ⟨-, rfl⟩ := h; rfl

theorem Skipped.wvalid {s t : State} {c : Bool} (h : Skipped s t c) : t.wvalid = s.wvalid := by
  obtain ⟨-, rfl⟩ := h; rfl

theorem readControl_wvalid {s u : State} {k : BitVec 11} {v : Word} (h : readControl s k = .ok (v, u)) :
    u.wvalid = s.wvalid := by
  obtain rfl | rfl := readControl_eq_ok h <;> rfl

/-- The one write that reaches WVALID, K = 2, is dropped where WVALID is read-only (10_state.md R42). -/
theorem writeControl_wvalid {s u : State} {k : BitVec 11} {v : Half} (hro : s.cfg.wvalidWritable = false)
    (h : writeControl s k v = .ok u) : u.wvalid = s.wvalid := by
  obtain ⟨-, rfl⟩ | ⟨-, rfl⟩ | ⟨-, rfl⟩ | ⟨-, rfl⟩ | ⟨-, rfl⟩ := writeControl_eq_ok h
  case inr.inr.inl => simp [hro]
  all_goals rfl

/-- Every instruction keeps a read-only WVALID. -/
theorem exec_wvalid {i : Instr} {s t : State} (hro : s.cfg.wvalidWritable = false) (h : exec i s = .next t) :
    t.wvalid = s.wvalid := by
  have he := exec_effect h
  cases i with
  | add | addi | sub | subi | cmp | cmpi | lsl | lsli | lsr | lsri | asr | asri | mov | movi | movhi | bgen | swap
  | not | neg | abs | rlc | rrc | ext8d | ext8s | ext16d | ext16s | sext8 | sext16 | fill8 | fill16
  | br | bsr | jmp | call | tret => cases he; rfl
  | and | andn | or | xor => obtain ⟨-, -, rfl⟩ := he; rfl
  | mstep | mul | pfx => obtain ⟨-, rfl⟩ := he; rfl
  | st | stp | sts | st8d | st8s | sts8s | st16d | st16s | sts16s => dsimp only [Effect] at he; exact he.wvalid
  | ld | ldp | lds => dsimp only [Effect] at he; exact he.wvalid
  | skp0 | skp1 | skprz | skprnz => dsimp only [Effect] at he; exact he.wvalid
  | skps => obtain ⟨_, -, hs⟩ := he; exact hs.wvalid
  | save => obtain ⟨-, -, -, hx⟩ := he; exact (windowException_wvalid hx).trans rfl
  | restore => obtain ⟨-, hx⟩ := he; exact (windowException_wvalid hx).trans rfl
  | trap => exact takeException_wvalid he
  | rdctl => obtain ⟨_, _, hv, rfl⟩ := he; exact (readControl_wvalid hv).trans rfl
  | wrctl => obtain ⟨_, hu, rfl⟩ := he; exact (writeControl_wvalid hro hu).trans rfl
  | usr0 | usr1 | usr2 | usr3 | usr4 => exact he.elim

/-- Every step keeps a read-only WVALID. -/
theorem step_wvalid {s t : State} (hro : s.cfg.wvalidWritable = false) (h : step s = .next t) :
    t.wvalid = s.wvalid := by
  obtain ⟨_, hx⟩ | ⟨i, -, hi⟩ := step_next h
  · exact (takeException_wvalid hx).trans rfl
  · exact exec_wvalid (s := s.sampled.afterRead s.pc 2) hro hi

/-! ### The obligations -/

/-- Settles O60: the limits are the fields WVALID is assembled from, and no step changes a read-only WVALID. -/
theorem resetWindowLimits : Obligations.ResetWindowLimits := by
  intro c image
  refine ⟨rfl, State.resetWith_loLimit c image, ?hiLimit, ?word, fun t u => step_wvalid⟩
  case hiLimit => rw [State.resetWith_hiLimit, RegfileSize.hiReset_toNat]
  case word =>
    change mkWvalid c.regfile.hiReset 1 = _
    cases c.regfile <;> rfl

/-- Settles O59: the fields STATUS is assembled from; IE = 0 masks the coming interrupts and window exceptions. -/
theorem resetStatus : Obligations.ResetStatus := by
  intro c image irqs s
  have hie : s.ie = false := State.resetWith_ie c image
  have hipri : s.ipri = 63 := State.resetWith_ipri c image
  have hcwp : s.cwp = c.regfile.hiReset := State.resetWith_cwp c image
  have hhi : s.hiLimit = c.regfile.hiReset := State.resetWith_hiLimit c image
  refine ⟨hie, by rw [hipri]; rfl, by rw [hcwp, RegfileSize.hiReset_toNat], hcwp.trans hhi.symm, ?upper,
    interruptTaken_of_ie_false hie, windowException_of_ie_false hie⟩
  case upper =>
    change ((mkStatus false 63 c.regfile.hiReset 0).extractLsb' 4 12).toNat = _
    cases c.regfile <;> rfl

end Sys2Proof.Machine
end

/-! ## Encoding and decoding (30_encoding.md R92, R94, R112) -/

section
namespace Sys2Proof

/-! ### Which decoder a word goes to -/

/-- A word with bit 15 clear is decoded by its 6-bit opcode. -/
theorem decodeWord_eq_decodeOp6 {w : Half} (h : field w 15 10 < 32) : decodeWord w = decodeOp6 w := by
  have hlow : field w 15 13 < 4 := by simp only [field] at h ⊢; omega
  unfold decodeWord
  split
  case h_5 => rfl
  all_goals omega

theorem decodeWord_eq_decodeU {w : Half} (h : field w 15 10 = 29) : decodeWord w = decodeU w := by
  simp only [decodeWord_eq_decodeOp6 (w := w) (by omega), decodeOp6, h]

theorem decodeWord_eq_decodeV {w : Half} (h : field w 15 10 = 30) : decodeWord w = decodeV w := by
  simp only [decodeWord_eq_decodeOp6 (w := w) (by omega), decodeOp6, h]

theorem decodeWord_eq_decodeW {w : Half} (h : field w 15 10 = 31) : decodeWord w = decodeW w := by
  simp only [decodeWord_eq_decodeOp6 (w := w) (by omega), decodeOp6, h]

/-! ### The fields of a word of each format -/

theorem field_eq_extract (w : Half) (hi lo : Nat) : field w hi lo = (w.extractLsb' lo (hi - lo + 1)).toNat :=
  (toNat_extractLsb'_div w lo (hi - lo + 1)).symm

theorem formatRR_parts (op : BitVec 6) (b a : BitVec 5) :
    field (formatRR op b a) 15 10 = op.toNat ∧
      fieldB (formatRR op b a) = b ∧ fieldA (formatRR op b a) = a := by
  refine ⟨?_, BitVec.eq_of_toNat_eq ?_, BitVec.eq_of_toNat_eq ?_⟩ <;>
    simp only [field, fieldA, fieldB, formatRR, toNat_append_add, toNat_extractLsb'_div] <;> omega

theorem formatRi5_eq (op : BitVec 6) (imm5 a : BitVec 5) : formatRi5 op imm5 a = formatRR op imm5 a := rfl

theorem formatI10_parts (op : BitVec 6) (imm10 : BitVec 10) :
    field (formatI10 op imm10) 15 10 = op.toNat ∧
      (formatI10 op imm10).extractLsb' 0 10 = imm10 := by
  refine ⟨?_, BitVec.eq_of_toNat_eq ?_⟩ <;>
    simp only [field, formatI10, toNat_append_add, toNat_extractLsb'_div] <;> omega

theorem formatI9_parts (op : BitVec 6) (imm9 : BitVec 9) :
    field (formatI9 op imm9) 15 10 = op.toNat ∧
      field (formatI9 op imm9) 0 0 = 0 ∧ (formatI9 op imm9).extractLsb' 1 9 = imm9 := by
  refine ⟨?_, ?_, BitVec.eq_of_toNat_eq ?_⟩ <;>
    simp only [field, formatI9, toNat_append_add, toNat_extractLsb'_div, BitVec.toNat_ofNat] <;> omega

theorem formatRi2u_parts (op : BitVec 9) (imm2 : BitVec 2) (a : BitVec 5) :
    field (formatRi2u op imm2 a) 15 10 = op.toNat / 8 ∧
      field (formatRi2u op imm2 a) 9 7 = op.toNat % 8 ∧
      (formatRi2u op imm2 a).extractLsb' 5 2 = imm2 ∧ fieldA (formatRi2u op imm2 a) = a := by
  refine ⟨?_, ?_, BitVec.eq_of_toNat_eq ?_, BitVec.eq_of_toNat_eq ?_⟩ <;>
    simp only [field, fieldA, formatRi2u, toNat_append_add, toNat_extractLsb'_div] <;> omega

theorem formatRi1u_parts (op : BitVec 9) (imm1 : BitVec 1) (a : BitVec 5) :
    field (formatRi1u op imm1 a) 15 10 = op.toNat / 8 ∧
      field (formatRi1u op imm1 a) 9 7 = op.toNat % 8 ∧ field (formatRi1u op imm1 a) 5 5 = 0 ∧
      (formatRi1u op imm1 a).extractLsb' 6 1 = imm1 ∧ fieldA (formatRi1u op imm1 a) = a := by
  refine ⟨?_, ?_, ?_, BitVec.eq_of_toNat_eq ?_, BitVec.eq_of_toNat_eq ?_⟩ <;>
    simp only [field, fieldA, formatRi1u, toNat_append_add, toNat_extractLsb'_div, BitVec.toNat_ofNat] <;> omega

theorem formatI8v_parts (op : BitVec 8) (imm8 : BitVec 8) :
    field (formatI8v op imm8) 15 10 = op.toNat / 4 ∧
      field (formatI8v op imm8) 9 8 = op.toNat % 4 ∧ (formatI8v op imm8).extractLsb' 0 8 = imm8 := by
  refine ⟨?_, ?_, BitVec.eq_of_toNat_eq ?_⟩ <;>
    simp only [field, formatI8v, toNat_append_add, toNat_extractLsb'_div] <;> omega

theorem formatI6v_parts (op : BitVec 8) (imm6 : BitVec 6) :
    field (formatI6v op imm6) 15 10 = op.toNat / 4 ∧
      field (formatI6v op imm6) 9 8 = op.toNat % 4 ∧ field (formatI6v op imm6) 7 6 = 0 ∧
      (formatI6v op imm6).extractLsb' 0 6 = imm6 := by
  refine ⟨?_, ?_, ?_, BitVec.eq_of_toNat_eq ?_⟩ <;>
    simp only [field, formatI6v, toNat_append_add, toNat_extractLsb'_div, BitVec.toNat_ofNat] <;> omega

theorem formatRw_parts (op5w a : BitVec 5) :
    field (formatRw op5w a) 15 10 = 31 ∧
      field (formatRw op5w a) 9 5 = op5w.toNat ∧ field (formatRw op5w a) 4 0 = a.toNat ∧
      fieldA (formatRw op5w a) = a := by
  refine ⟨?_, ?_, ?_, BitVec.eq_of_toNat_eq ?_⟩ <;>
    simp only [field, fieldA, formatRw, toNat_append_add, toNat_extractLsb'_div, BitVec.toNat_ofNat] <;> omega

theorem formatW_eq (op5w : BitVec 5) : formatW op5w = formatRw op5w 0 := rfl

theorem formatI4w_parts (op5w : BitVec 5) (imm4 : BitVec 4) :
    field (formatI4w op5w imm4) 15 10 = 31 ∧
      field (formatI4w op5w imm4) 9 5 = op5w.toNat ∧ field (formatI4w op5w imm4) 4 4 = 0 ∧
      (formatI4w op5w imm4).extractLsb' 0 4 = imm4 := by
  refine ⟨?_, ?_, ?_, BitVec.eq_of_toNat_eq ?_⟩ <;>
    simp only [field, formatI4w, toNat_append_add, toNat_extractLsb'_div, BitVec.toNat_ofNat] <;> omega

theorem formatI11_parts (op : BitVec 5) (imm11 : BitVec 11) :
    field (formatI11 op imm11) 15 13 = op.toNat / 4 ∧ field (formatI11 op imm11) 12 11 = op.toNat % 4 ∧
      (formatI11 op imm11).extractLsb' 0 11 = imm11 := by
  refine ⟨?_, ?_, BitVec.eq_of_toNat_eq ?_⟩ <;>
    simp only [field, formatI11, toNat_append_add, toNat_extractLsb'_div] <;> omega

theorem formatRPi5_parts (op : BitVec 4) (p imm5 a : BitVec 5) :
    field (formatRPi5 op p imm5 a) 15 13 = op.toNat / 2 ∧ field (formatRPi5 op p imm5 a) 12 12 = op.toNat % 2 ∧
      (fieldP (formatRPi5 op p imm5 a)).toNat = 16 + p.toNat % 4 ∧
      fieldB (formatRPi5 op p imm5 a) = imm5 ∧ fieldA (formatRPi5 op p imm5 a) = a := by
  refine ⟨?_, ?_, ?_, BitVec.eq_of_toNat_eq ?_, BitVec.eq_of_toNat_eq ?_⟩ <;>
    simp only [field, fieldA, fieldB, fieldP, formatRPi5, toNat_append_add, toNat_extractLsb'_div,
      BitVec.toNat_ofNat] <;> omega

theorem formatRi8_parts (op : BitVec 3) (imm8 : BitVec 8) (a : BitVec 5) :
    field (formatRi8 op imm8 a) 15 13 = op.toNat ∧ (formatRi8 op imm8 a).extractLsb' 5 8 = imm8 ∧
      fieldA (formatRi8 op imm8 a) = a := by
  refine ⟨?_, BitVec.eq_of_toNat_eq ?_, BitVec.eq_of_toNat_eq ?_⟩ <;>
    simp only [field, fieldA, formatRi8, toNat_append_add, toNat_extractLsb'_div] <;> omega

/-! ### Decoding an encoded instruction -/

theorem isBasePointer_iff {p : Reg} : isBasePointer p = true ↔ 16 ≤ p.toNat ∧ p.toNat ≤ 19 := by
  simp [isBasePointer]

/-- The two bits of field P name a base pointer again, as there are four of them. -/
theorem fieldP_formatRPi5 {op : BitVec 4} {p imm5 a : BitVec 5} (hp : isBasePointer p = true) :
    fieldP (formatRPi5 op p imm5 a) = p := by
  obtain ⟨-, -, hP, -, -⟩ := formatRPi5_parts op p imm5 a
  have hrange := isBasePointer_iff.1 hp
  exact BitVec.eq_of_toNat_eq (by omega)

/-- Settles O1, format by format: the opcode fields of the word select the decoder's branch, the others give the
operands back. -/
theorem decodeInvertsEncode : Obligations.DecodeInvertsEncode := by
  intro i hi
  cases i with
  | add | addi | sub | subi | cmp | cmpi | lsl | lsli | lsr | lsri | asr | asri | mov | movi | and | andn | or | xor
  | bgen | ext8d | skp0 | skp1 | ld | st | ext16d | movhi | usr0 =>
    simp [encode, formatRi5_eq, decodeWord_eq_decodeOp6, decodeOp6, formatRR_parts]
  | sts8s => simp [encode, decodeWord_eq_decodeOp6, decodeOp6, formatI10_parts]
  | sts16s => simp [encode, decodeWord_eq_decodeOp6, decodeOp6, formatI9_parts]
  | ext8s | st8s => simp [encode, decodeWord_eq_decodeU, decodeU, formatRi2u_parts]
  | ext16s | st16s => simp [encode, decodeWord_eq_decodeU, decodeU, formatRi1u_parts]
  | save => simp [encode, decodeWord_eq_decodeV, decodeV, formatI8v_parts]
  | trap => simp [encode, decodeWord_eq_decodeV, decodeV, formatI6v_parts]
  | not | neg | abs | sext8 | sext16 | rlc | rrc | swap | usr1 | usr2 | usr3 | usr4 | tret | st8d | st16d | fill8
  | fill16 | mstep | mul | skprz | wrctl | rdctl | skprnz | jmp | call =>
    simp [encode, decodeWord_eq_decodeW, decodeW, formatRw_parts]
  | restore => simp [encode, formatW_eq, decodeWord_eq_decodeW, decodeW, formatRw_parts]
  | skps => simp [encode, decodeWord_eq_decodeW, decodeW, formatI4w_parts]
  | br | bsr | pfx => simp [encode, decodeWord, formatI11_parts]
  | stp | ldp => simp [encode, decodeWord, formatRPi5_parts, fieldP_formatRPi5 hi]
  | sts | lds => simp [encode, decodeWord, formatRi8_parts]

/-! ### A word put together again from its fields -/

theorem formatRR_of_fields {w : Half} {op : BitVec 6} (h : field w 15 10 = op.toNat) :
    formatRR op (fieldB w) (fieldA w) = w := by
  apply BitVec.eq_of_toNat_eq
  simp only [field, fieldA, fieldB, formatRR, toNat_append_add, toNat_extractLsb'_div] at h ⊢; omega

theorem formatI10_of_fields {w : Half} {op : BitVec 6} (h : field w 15 10 = op.toNat) :
    formatI10 op (w.extractLsb' 0 10) = w := by
  apply BitVec.eq_of_toNat_eq
  simp only [field, formatI10, toNat_append_add, toNat_extractLsb'_div] at h ⊢; omega

theorem formatI9_of_fields {w : Half} {op : BitVec 6} (h : field w 15 10 = op.toNat) (hz : field w 0 0 = 0) :
    formatI9 op (w.extractLsb' 1 9) = w := by
  apply BitVec.eq_of_toNat_eq
  simp only [field, formatI9, toNat_append_add, toNat_extractLsb'_div, BitVec.toNat_ofNat] at h hz ⊢; omega

theorem formatRi2u_of_fields {w : Half} {op : BitVec 9} (h : field w 15 10 = op.toNat / 8)
    (hu : field w 9 7 = op.toNat % 8) : formatRi2u op (w.extractLsb' 5 2) (fieldA w) = w := by
  apply BitVec.eq_of_toNat_eq
  simp only [field, fieldA, formatRi2u, toNat_append_add, toNat_extractLsb'_div] at h hu ⊢; omega

theorem formatRi1u_of_fields {w : Half} {op : BitVec 9} (h : field w 15 10 = op.toNat / 8)
    (hu : field w 9 7 = op.toNat % 8) (hz : field w 5 5 = 0) :
    formatRi1u op (w.extractLsb' 6 1) (fieldA w) = w := by
  apply BitVec.eq_of_toNat_eq
  simp only [field, fieldA, formatRi1u, toNat_append_add, toNat_extractLsb'_div, BitVec.toNat_ofNat] at h hu hz ⊢
  omega

theorem formatI8v_of_fields {w : Half} {op : BitVec 8} (h : field w 15 10 = op.toNat / 4)
    (hv : field w 9 8 = op.toNat % 4) : formatI8v op (w.extractLsb' 0 8) = w := by
  apply BitVec.eq_of_toNat_eq
  simp only [field, formatI8v, toNat_append_add, toNat_extractLsb'_div] at h hv ⊢; omega

theorem formatI6v_of_fields {w : Half} {op : BitVec 8} (h : field w 15 10 = op.toNat / 4)
    (hv : field w 9 8 = op.toNat % 4) (hz : field w 7 6 = 0) : formatI6v op (w.extractLsb' 0 6) = w := by
  apply BitVec.eq_of_toNat_eq
  simp only [field, formatI6v, toNat_append_add, toNat_extractLsb'_div, BitVec.toNat_ofNat] at h hv hz ⊢; omega

theorem formatRw_of_fields {w : Half} {op5w : BitVec 5} (h : field w 15 10 = 31)
    (hw : field w 9 5 = op5w.toNat) : formatRw op5w (fieldA w) = w := by
  apply BitVec.eq_of_toNat_eq
  simp only [field, fieldA, formatRw, toNat_append_add, toNat_extractLsb'_div, BitVec.toNat_ofNat] at h hw ⊢; omega

theorem formatI4w_of_fields {w : Half} {op5w : BitVec 5} (h : field w 15 10 = 31)
    (hw : field w 9 5 = op5w.toNat) (hz : field w 4 4 = 0) : formatI4w op5w (w.extractLsb' 0 4) = w := by
  apply BitVec.eq_of_toNat_eq
  simp only [field, formatI4w, toNat_append_add, toNat_extractLsb'_div, BitVec.toNat_ofNat] at h hw hz ⊢; omega

theorem formatW_of_fields {w : Half} {op5w : BitVec 5} (h : field w 15 10 = 31)
    (hw : field w 9 5 = op5w.toNat) (hz : field w 4 0 = 0) : formatW op5w = w := by
  apply BitVec.eq_of_toNat_eq
  simp only [field, formatW, toNat_append_add, BitVec.toNat_ofNat] at h hw hz ⊢; omega

theorem formatI11_of_fields {w : Half} {op : BitVec 5} (h : field w 15 13 = op.toNat / 4)
    (hop : field w 12 11 = op.toNat % 4) : formatI11 op (w.extractLsb' 0 11) = w := by
  apply BitVec.eq_of_toNat_eq
  simp only [field, formatI11, toNat_append_add, toNat_extractLsb'_div] at h hop ⊢; omega

theorem formatRPi5_of_fields {w : Half} {op : BitVec 4} (h : field w 15 13 = op.toNat / 2)
    (hop : field w 12 12 = op.toNat % 2) : formatRPi5 op (fieldP w) (fieldB w) (fieldA w) = w := by
  apply BitVec.eq_of_toNat_eq
  simp only [field, fieldA, fieldB, fieldP, formatRPi5, toNat_append_add, toNat_extractLsb'_div,
    BitVec.toNat_ofNat] at h hop ⊢
  omega

theorem formatRi8_of_fields {w : Half} {op : BitVec 3} (h : field w 15 13 = op.toNat) :
    formatRi8 op (w.extractLsb' 5 8) (fieldA w) = w := by
  apply BitVec.eq_of_toNat_eq
  simp only [field, fieldA, formatRi8, toNat_append_add, toNat_extractLsb'_div] at h ⊢; omega

/-- The base pointer that the two bits of field P name is one of the four (30_encoding.md R93). -/
theorem isBasePointer_fieldP (w : Half) : isBasePointer (fieldP w) = true := by
  rw [isBasePointer_iff, fieldP, toNat_append_add]
  simp only [BitVec.toNat_ofNat]; omega

/-! ### Encoding a decoded instruction -/

/-- The instruction is one, and `w` is its word. -/
def Encodes (w : Half) (i : Instr) : Prop := i.wellFormed = true ∧ encode i = w

theorem decodeU_encodes {w : Half} {i : Instr} (hop : field w 15 10 = 29) (h : decodeU w = .ok i) : Encodes w i := by
  unfold decodeU at h
  split at h
  case h_1 hu | h_3 hu => cases h; exact ⟨rfl, formatRi2u_of_fields hop hu⟩
  case h_2 hu | h_4 hu =>
    split at h
    case isTrue hz => cases h; exact ⟨rfl, formatRi1u_of_fields hop hu hz⟩
    case isFalse => cases h
  case h_5 => cases h

theorem decodeV_encodes {w : Half} {i : Instr} (hop : field w 15 10 = 30) (h : decodeV w = .ok i) : Encodes w i := by
  unfold decodeV at h
  split at h
  case h_1 hv => cases h; exact ⟨rfl, formatI8v_of_fields hop hv⟩
  case h_2 hv =>
    split at h
    case isTrue hz => cases h; exact ⟨rfl, formatI6v_of_fields hop hv hz⟩
    case isFalse => cases h
  case h_3 => cases h

theorem decodeW_encodes {w : Half} {i : Instr} (hop : field w 15 10 = 31) (h : decodeW w = .ok i) : Encodes w i := by
  unfold decodeW at h
  split at h
  case h_13 hw =>
    split at h
    case isTrue hz => cases h; exact ⟨rfl, formatW_of_fields hop hw hz⟩
    case isFalse => cases h
  case h_22 hw =>
    split at h
    case isTrue hz => cases h; exact ⟨rfl, formatI4w_of_fields hop hw hz⟩
    case isFalse => cases h
  case h_28 => cases h
  all_goals rename_i hw; cases h; exact ⟨rfl, formatRw_of_fields hop hw⟩

theorem decodeOp6_encodes {w : Half} {i : Instr} (h : decodeOp6 w = .ok i) : Encodes w i := by
  unfold decodeOp6 at h
  split at h
  case h_25 hop => cases h; exact ⟨rfl, formatI10_of_fields hop⟩
  case h_26 hop =>
    split at h
    case isTrue hz => cases h; exact ⟨rfl, formatI9_of_fields hop hz⟩
    case isFalse => cases h
  case h_30 hop => exact decodeU_encodes hop h
  case h_31 hop => exact decodeV_encodes hop h
  case h_32 hop => exact decodeW_encodes hop h
  case h_33 => cases h
  all_goals rename_i hop; cases h; exact ⟨rfl, formatRR_of_fields hop⟩

theorem decodeWord_encodes {w : Half} {i : Instr} (h : decodeWord w = .ok i) : Encodes w i := by
  unfold decodeWord at h
  split at h
  case h_1 hop | h_2 hop => cases h; exact ⟨rfl, formatRi8_of_fields hop⟩
  case h_3 hop =>
    split at h
    case h_1 hp => cases h; exact ⟨isBasePointer_fieldP w, formatRPi5_of_fields hop hp⟩
    case h_2 hp =>
      have hlt : field w 12 12 < 2 := Nat.mod_lt _ (by decide)
      have hp : field w 12 12 = 1 := Nat.eq_of_le_of_lt_succ (Nat.one_le_iff_ne_zero.2 hp) hlt
      cases h; exact ⟨isBasePointer_fieldP w, formatRPi5_of_fields hop hp⟩
  case h_4 hop =>
    split at h
    case h_1 hb | h_2 hb | h_3 hb => cases h; exact ⟨rfl, formatI11_of_fields hop hb⟩
    case h_4 => cases h
  case h_5 => exact decodeOp6_encodes h

/-- Settles O2: every branch of the decoder checks the opcode and fixed-zero bits that the encoder writes. -/
theorem encodeInvertsDecode : Obligations.EncodeInvertsDecode := fun _ _ => decodeWord_encodes

/-! ### The opcode map -/

/-- Two words that agree under a mask agree in every field the mask covers. -/
theorem field_eq_of_mask {w v m : Half} {hi lo : Nat} (h : w &&& m = v &&& m)
    (hm : field m hi lo = 2 ^ (hi - lo + 1) - 1) : field w hi lo = field v hi lo := by
  have hones : m.extractLsb' lo (hi - lo + 1) = BitVec.allOnes _ :=
    BitVec.eq_of_toNat_eq (by rw [← field_eq_extract, hm, BitVec.toNat_allOnes])
  have hx := congrArg (BitVec.extractLsb' lo (hi - lo + 1)) h
  simp only [BitVec.extractLsb'_and, hones, BitVec.and_allOnes] at hx
  rw [field_eq_extract, field_eq_extract, hx]

theorem encode_and_mask (i : Instr) : encode i &&& i.row.mask = i.row.value := by
  cases i with
  | add | sub | cmp | lsl | lsr | asr | mov | and | andn | or | xor | ext8d | ld | st | ext16d | usr0 =>
    exact formatRR_mask _ _ _
  | addi | subi | cmpi | lsli | lsri | asri | movi | bgen | skp0 | skp1 | movhi => exact formatRi5_mask _ _ _
  | sts8s => exact formatI10_mask _ _
  | sts16s => exact formatI9_mask _ _
  | ext8s | st8s => exact formatRi2u_mask _ _ _
  | ext16s | st16s => exact formatRi1u_mask _ _ _
  | save => exact formatI8v_mask _ _
  | trap => exact formatI6v_mask _ _
  | not | neg | abs | sext8 | sext16 | rlc | rrc | swap | usr1 | usr2 | usr3 | usr4 | tret | st8d | st16d | fill8
  | fill16 | mstep | mul | skprz | wrctl | rdctl | skprnz | jmp | call => exact formatRw_mask _ _
  | restore => exact formatW_mask _
  | skps => exact formatI4w_mask _ _
  | br | bsr | pfx => exact formatI11_mask _ _
  | stp | ldp => exact formatRPi5_mask _ _ _ _
  | sts | lds => exact formatRi8_mask _ _ _

/-- A word of a row goes to the branch of the decoder that gives an instruction of the row. -/
theorem decodeWord_of_row {w : Half} {i : Instr} (h : w &&& i.row.mask = i.row.value) :
    ∃ j, decodeWord w = .ok j ∧ j.row = i.row := by
  have hm := h.trans (encode_and_mask i).symm
  cases i with
  | add | addi | sub | subi | cmp | cmpi | lsl | lsli | lsr | lsri | asr | asri | mov | movi | and | andn | or | xor
  | bgen | ext8d | skp0 | skp1 | ld | st | ext16d | movhi | usr0 =>
    simp only [encode, Instr.row] at hm
    have hop := field_eq_of_mask (hi := 15) (lo := 10) hm rfl
    simp only [formatRi5_eq, formatRR_parts] at hop
    simp [decodeWord_eq_decodeOp6, decodeOp6, hop, Instr.row]
  | sts8s =>
    simp only [encode, Instr.row] at hm
    have hop := field_eq_of_mask (hi := 15) (lo := 10) hm rfl
    simp only [formatI10_parts] at hop
    simp [decodeWord_eq_decodeOp6, decodeOp6, hop, Instr.row]
  | sts16s =>
    simp only [encode, Instr.row] at hm
    have hop := field_eq_of_mask (hi := 15) (lo := 10) hm rfl
    have hz := field_eq_of_mask (hi := 0) (lo := 0) hm rfl
    simp only [formatI9_parts] at hop hz
    simp [decodeWord_eq_decodeOp6, decodeOp6, hop, hz, Instr.row]
  | ext8s | st8s =>
    simp only [encode, Instr.row] at hm
    have hop := field_eq_of_mask (hi := 15) (lo := 10) hm rfl
    have hu := field_eq_of_mask (hi := 9) (lo := 7) hm rfl
    simp only [formatRi2u_parts] at hop hu
    simp [decodeWord_eq_decodeU, decodeU, hop, hu, Instr.row]
  | ext16s | st16s =>
    simp only [encode, Instr.row] at hm
    have hop := field_eq_of_mask (hi := 15) (lo := 10) hm rfl
    have hu := field_eq_of_mask (hi := 9) (lo := 7) hm rfl
    have hz := field_eq_of_mask (hi := 5) (lo := 5) hm rfl
    simp only [formatRi1u_parts] at hop hu hz
    simp [decodeWord_eq_decodeU, decodeU, hop, hu, hz, Instr.row]
  | save =>
    simp only [encode, Instr.row] at hm
    have hop := field_eq_of_mask (hi := 15) (lo := 10) hm rfl
    have hv := field_eq_of_mask (hi := 9) (lo := 8) hm rfl
    simp only [formatI8v_parts] at hop hv
    simp [decodeWord_eq_decodeV, decodeV, hop, hv, Instr.row]
  | trap =>
    simp only [encode, Instr.row] at hm
    have hop := field_eq_of_mask (hi := 15) (lo := 10) hm rfl
    have hv := field_eq_of_mask (hi := 9) (lo := 8) hm rfl
    have hz := field_eq_of_mask (hi := 7) (lo := 6) hm rfl
    simp only [formatI6v_parts] at hop hv hz
    simp [decodeWord_eq_decodeV, decodeV, hop, hv, hz, Instr.row]
  | not | neg | abs | sext8 | sext16 | rlc | rrc | swap | usr1 | usr2 | usr3 | usr4 | tret | st8d | st16d | fill8
  | fill16 | mstep | mul | skprz | wrctl | rdctl | skprnz | jmp | call =>
    simp only [encode, Instr.row] at hm
    have hop := field_eq_of_mask (hi := 15) (lo := 10) hm rfl
    have hw := field_eq_of_mask (hi := 9) (lo := 5) hm rfl
    simp only [formatRw_parts] at hop hw
    simp [decodeWord_eq_decodeW, decodeW, hop, hw, Instr.row]
  | restore =>
    simp only [encode, Instr.row] at hm
    have hop := field_eq_of_mask (hi := 15) (lo := 10) hm rfl
    have hw := field_eq_of_mask (hi := 9) (lo := 5) hm rfl
    have hz := field_eq_of_mask (hi := 4) (lo := 0) hm rfl
    simp only [formatW_eq, formatRw_parts] at hop hw hz
    simp [decodeWord_eq_decodeW, decodeW, hop, hw, hz, Instr.row]
  | skps =>
    simp only [encode, Instr.row] at hm
    have hop := field_eq_of_mask (hi := 15) (lo := 10) hm rfl
    have hw := field_eq_of_mask (hi := 9) (lo := 5) hm rfl
    have hz := field_eq_of_mask (hi := 4) (lo := 4) hm rfl
    simp only [formatI4w_parts] at hop hw hz
    simp [decodeWord_eq_decodeW, decodeW, hop, hw, hz, Instr.row]
  | br | bsr | pfx =>
    simp only [encode, Instr.row] at hm
    have hop := field_eq_of_mask (hi := 15) (lo := 13) hm rfl
    have hb := field_eq_of_mask (hi := 12) (lo := 11) hm rfl
    simp only [formatI11_parts] at hop hb
    simp [decodeWord, hop, hb, Instr.row]
  | stp | ldp =>
    simp only [encode, Instr.row] at hm
    have hop := field_eq_of_mask (hi := 15) (lo := 13) hm rfl
    have hp := field_eq_of_mask (hi := 12) (lo := 12) hm rfl
    simp only [formatRPi5_parts] at hop hp
    simp [decodeWord, hop, hp, Instr.row]
  | sts | lds =>
    simp only [encode, Instr.row] at hm
    have hop := field_eq_of_mask (hi := 15) (lo := 13) hm rfl
    simp only [formatRi8_parts] at hop
    simp [decodeWord, hop, Instr.row]

/-- Settles O3. -/
theorem decodeFollowsOpcodeMap : Obligations.DecodeFollowsOpcodeMap := by
  intro w i
  refine ⟨decodeWord_of_row, ?_⟩
  rintro ⟨j, hj, hrow⟩
  obtain ⟨-, rfl⟩ := decodeWord_encodes hj
  rw [← hrow, encode_and_mask]

/-- Settles O4. -/
theorem sampleWordsDecode : Obligations.SampleWordsDecode := by
  refine ⟨?_, ?_, ?_, ?_, ?_, ?_, ?_, ?_, ?_, ?_⟩
  all_goals rfl

end Sys2Proof
end

/-! ## The course of an instruction: what it does to everything but its own result (10_state.md R46) -/

section
namespace Sys2Proof.Machine

/-- The instructions that compute the condition codes (10_state.md R40); TRET and WRCTL replace STATUS instead. -/
def setsFlags : Instr → Bool
  | .add _ _ | .addi _ _ | .sub _ _ | .subi _ _ | .cmp _ _ | .cmpi _ _ | .and _ _ | .andn _ _ | .or _ _ | .xor _ _
  | .rlc _ | .rrc _ => true
  | _ => false

/-- The state after SAVE without its exception. -/
abbrev saved (s : State) (imm8 : BitVec 8) : State :=
  afterWrite (s.setCwp (s.cwp - 1)) 14 ((s.setCwp (s.cwp - 1)).x 30 - imm8.setWidth 32 * 4)

/-- The state after RESTORE without its exception. -/
abbrev restored (s : State) : State := (s.setCwp (s.cwp + 1)).retire

/-- A write to memory that stays within the n bytes from a. -/
structure WritesBytes (write : Memory → Memory) (a n : Nat) : Prop where
  other : ∀ (m : Memory) (b : Nat), (b < a ∨ a + n ≤ b) → (write m).get b = m.get b
  wf : ∀ m : Memory, a + n ≤ 2 ^ 33 → m.wf → (write m).wf

/-- The step ends as usual; of the rest only register contents, condition codes, memory and the free counter may have
changed. -/
structure Ordinary (s t : State) : Prop where
  ends : EndsAt s t s.nextPc
  system : KeepsSystem s t
  regs : t.regs.length = s.regs.length
  ie : t.ie = s.ie
  ipri : t.ipri = s.ipri
  cwp : t.cwp = s.cwp

/-- The ways an instruction can go on. -/
inductive Course (s t : State) : Instr → Prop
  | result {i : Instr} (prefix_free : ∀ n, i ≠ .pfx n) (ordinary : Ordinary s t) (memory : t.mem = s.mem)
      (flags : setsFlags i = false → t.flags = s.flags) : Course s t i
  | store {i : Instr} {addr : Addr} {n : Nat} {write : Memory → Memory} (target : storeTarget s i = some (addr, n))
      (writes : WritesBytes write addr.toNat n) (stored : Stored s t addr n write) : Course s t i
  | skip {i : Instr} {c : Bool} (test : skipTest s i = some c) (skipped : Skipped s t c) : Course s t i
  | transfer {i : Instr} {u : State} {target : Addr} (prefix_free : ∀ n, i ≠ .pfx n)
      (forbidden : forbiddenInSlot i = true) (from_ : u = s ∨ u = linked s)
      (even : s.pc.toNat % 2 = 0 → target.toNat % 2 = 0) (delayed : t = u.retireDelayed target) : Course s t i
  | pfx {n : BitVec 11} (prefixed : t = { s.retire with k := n, pfxd := true }) : Course s t (.pfx n)
  | save {n : BitVec 8} (moved : windowException (saved s n) (s.cwp = s.loLimit) 1 false = .ok t) :
      Course s t (.save n)
  | restore (moved : windowException (restored s) (s.cwp = s.hiLimit) 2 true = .ok t) : Course s t .restore
  | trap {n : ExcNum} (entered : takeException s n (s.pc + 2) true = .ok t) : Course s t (.trap n)
  | tret {a : Reg} (returned : t = returnFromException s (byteAddress (s.x a))) : Course s t (.tret a)
  | wrctl {a : Reg} {u : State} (written : writeControl s s.k ((s.x a).extractLsb' 0 16) = .ok u)
      (ended : t = { u.retire with wstat := decide (s.k = 0) }) : Course s t (.wrctl a)

/-! ### Even addresses -/

theorem byteAddress_even (v : Word) : (byteAddress v).toNat % 2 = 0 := by
  rw [byteAddress, toNat_append_add]; simp

theorem add_even {a b : Addr} (ha : a.toNat % 2 = 0) (hb : b.toNat % 2 = 0) : (a + b).toNat % 2 = 0 := by
  rw [BitVec.toNat_add]; omega

theorem two_mul_even (a : Addr) : (2 * a).toNat % 2 = 0 := by
  rw [BitVec.toNat_mul]; simp

theorem branchTarget_even {s : State} (n : BitVec 11) (h : s.pc.toNat % 2 = 0) : (branchTarget s n).toNat % 2 = 0 :=
  add_even h (two_mul_even _)

/-! ### The results that are ordinary -/

theorem afterWrite_ordinary (s : State) (a : Reg) (v : Word) : Ordinary s (afterWrite s a v) :=
  ⟨⟨rfl, rfl, rfl, rfl, rfl⟩, ⟨rfl, rfl, rfl, rfl⟩, List.length_set, rfl, rfl, rfl⟩

theorem setFlags_ordinary (s : State) (f : Flags) : Ordinary s (s.setFlags f).retire := by
  obtain ⟨-, hie, hipri, hcwp⟩ := setFlags_writesFlags s f
  exact ⟨⟨rfl, rfl, rfl, rfl, rfl⟩, ⟨rfl, rfl, rfl, rfl⟩, rfl, hie, hipri, hcwp⟩

theorem afterWriteFlags_ordinary (s : State) (a : Reg) (v : Word) (f : Flags) :
    Ordinary s (afterWriteFlags s a v f) := by
  obtain ⟨-, hie, hipri, hcwp⟩ := setFlags_writesFlags s f
  exact ⟨⟨rfl, rfl, rfl, rfl, rfl⟩, ⟨rfl, rfl, rfl, rfl⟩, List.length_set, hie, hipri, hcwp⟩

theorem Loaded.ordinary {s t : State} {a : Reg} {addr : Addr} (h : Loaded s t a addr) : Ordinary s t := by
  obtain ⟨-, rfl⟩ := h
  exact ⟨⟨rfl, rfl, rfl, rfl, rfl⟩, ⟨rfl, rfl, rfl, rfl⟩, List.length_set, rfl, rfl, rfl⟩

theorem readControl_ordinary {s u : State} {a : Reg} {k : BitVec 11} {v : Word} (h : readControl s k = .ok (v, u)) :
    Ordinary s (afterWrite u a v) := by
  obtain rfl | rfl := readControl_eq_ok h <;>
    exact ⟨⟨rfl, rfl, rfl, rfl, rfl⟩, ⟨rfl, rfl, rfl, rfl⟩, List.length_set, rfl, rfl, rfl⟩

theorem Stored.ordinary {s t : State} {addr : Addr} {n : Nat} {write : Memory → Memory}
    (h : Stored s t addr n write) : Ordinary s t := by
  obtain ⟨-, rfl⟩ | ⟨-, rfl⟩ := h <;> exact ⟨⟨rfl, rfl, rfl, rfl, rfl⟩, ⟨rfl, rfl, rfl, rfl⟩, rfl, rfl, rfl, rfl⟩

/-! ### The writes of the stores -/

theorem put_writesBytes (a : Nat) (v : Byte) : WritesBytes (fun m => m.put a v) a 1 where
  other _ _ h := Memory.get_put_other _ _ (by omega)
  wf _ ha h := Memory.put_wf _ (by omega) h

theorem putHalf_writesBytes (a : Nat) (v : Half) : WritesBytes (fun m => m.putHalf a v) a 2 where
  other _ _ h := Memory.get_putHalf_other _ _ h
  wf _ ha h := Memory.putHalf_wf _ ha h

theorem putWord_writesBytes (a : Nat) (v : Word) : WritesBytes (fun m => m.putWord a v) a 4 where
  other _ _ h := Memory.get_putWord_other _ _ h
  wf _ ha h := Memory.putWord_wf _ ha h

/-! ### Every instruction takes one of the courses -/

theorem exec_course {i : Instr} {s t : State} (h : exec i s = .next t) : Course s t i := by
  have he := exec_effect h
  cases i with
  | lsl | lsli | lsr | lsri | asr | asri | mov | movi | movhi | bgen | swap | not | neg | abs | ext8d | ext8s | ext16d
  | ext16s | sext8 | sext16 | fill8 | fill16 =>
    cases he
    exact .result (by simp) (afterWrite_ordinary ..) rfl fun _ => rfl
  | mstep | mul =>
    obtain ⟨-, rfl⟩ := he
    exact .result (by simp) (afterWrite_ordinary ..) rfl fun _ => rfl
  | add | addi | sub | subi | rlc | rrc =>
    cases he
    exact .result (by simp) (afterWriteFlags_ordinary ..) rfl (by simp [setsFlags])
  | and | andn | or | xor =>
    obtain ⟨-, -, rfl⟩ := he
    exact .result (by simp) (afterWriteFlags_ordinary ..) rfl (by simp [setsFlags])
  | cmp | cmpi =>
    cases he
    exact .result (by simp) (setFlags_ordinary ..) rfl (by simp [setsFlags])
  | ld | ldp | lds =>
    dsimp only [Effect] at he
    exact .result (by simp) he.ordinary (by rw [he.2]; rfl) (by rw [he.2]; exact fun _ => rfl)
  | rdctl a =>
    obtain ⟨_, _, hv, rfl⟩ := he
    have ho := readControl_ordinary (a := a) hv
    obtain rfl | rfl := readControl_eq_ok hv <;> exact .result (by simp) ho rfl fun _ => rfl
  | st | stp | sts => exact .store rfl (putWord_writesBytes ..) he
  | st8d | st8s | sts8s => exact .store rfl (put_writesBytes ..) he
  | st16d | st16s | sts16s => exact .store rfl (putHalf_writesBytes ..) he
  | skp0 | skp1 | skprz | skprnz => exact .skip rfl he
  | skps =>
    obtain ⟨c, hc, hs⟩ := he
    exact .skip (by rw [skipTest, hc]; rfl) hs
  | br => exact .transfer (by simp) rfl (.inl rfl) (branchTarget_even _) he
  | bsr => exact .transfer (by simp) rfl (.inr rfl) (branchTarget_even _) he
  | jmp => exact .transfer (by simp) rfl (.inl rfl) (fun _ => byteAddress_even _) he
  | call => exact .transfer (by simp) rfl (.inr rfl) (fun _ => byteAddress_even _) he
  | pfx => exact .pfx he.2
  | save => obtain ⟨-, -, -, hx⟩ := he; exact .save hx
  | restore => obtain ⟨-, hx⟩ := he; exact .restore hx
  | trap => exact .trap he
  | tret => exact .tret he
  | wrctl => obtain ⟨_, hu, ht⟩ := he; exact .wrctl hu ht
  | usr0 | usr1 | usr2 | usr3 | usr4 => exact he.elim

end Sys2Proof.Machine
end

/-! ## What every instruction keeps, and the invariant of the machine -/

section
namespace Sys2Proof.Machine

/-! ### Configuration, inputs, WVALID, the size of the register file, memory -/

/-- The parts of the machine that only stores and WRCTL reach. -/
structure KeepsMachine (s t : State) : Prop where
  cfg : t.cfg = s.cfg
  irqs : t.irqs = s.irqs
  wvalid : t.wvalid = s.wvalid
  regs : t.regs.length = s.regs.length
  mem : t.mem = s.mem

theorem KeepsMachine.trans {s m t : State} (h : KeepsMachine s m) (h' : KeepsMachine m t) : KeepsMachine s t :=
  ⟨h'.cfg.trans h.cfg, h'.irqs.trans h.irqs, h'.wvalid.trans h.wvalid, h'.regs.trans h.regs, h'.mem.trans h.mem⟩

theorem Ordinary.keepsMachine {s t : State} (h : Ordinary s t) (hm : t.mem = s.mem) : KeepsMachine s t :=
  ⟨h.system.cfg, h.system.irqs, h.system.wvalid, h.regs, hm⟩

theorem takeException_keepsMachine {s t : State} {n : ExcNum} {ret : Addr} {dec : Bool}
    (h : takeException s n ret dec = .ok t) : KeepsMachine s t := by
  obtain ⟨_, -, -, -, rfl⟩ := takeException_eq_ok.1 h
  exact ⟨rfl, rfl, rfl, List.length_set, rfl⟩

theorem windowException_keepsMachine {s t : State} {e : ExcNum} {dec atLimit : Bool}
    (h : windowException s atLimit e dec = .ok t) : KeepsMachine s t := by
  obtain ⟨-, hx⟩ | ⟨-, rfl⟩ := windowException_eq_ok.1 h
  · exact takeException_keepsMachine hx
  · exact ⟨rfl, rfl, rfl, rfl, rfl⟩

theorem saved_keepsMachine (s : State) (n : BitVec 8) : KeepsMachine s (saved s n) :=
  ⟨rfl, rfl, rfl, List.length_set, rfl⟩

theorem restored_keepsMachine (s : State) : KeepsMachine s (restored s) := ⟨rfl, rfl, rfl, rfl, rfl⟩

/-- A store changes memory, WRCTL may change WVALID; no other instruction reaches any of the five. -/
theorem Course.machine {i : Instr} {s t : State} (h : Course s t i) :
    KeepsMachine s t ∨
    (∃ addr n write, storeTarget s i = some (addr, n) ∧ WritesBytes write addr.toNat n ∧ Stored s t addr n write) ∨
    ∃ a u, i = .wrctl a ∧ writeControl s s.k ((s.x a).extractLsb' 0 16) = .ok u ∧
      t = { u.retire with wstat := decide (s.k = 0) } := by
  cases h with
  | result _ ho hm => exact .inl (ho.keepsMachine hm)
  | store ht hw hs => exact .inr (.inl ⟨_, _, _, ht, hw, hs⟩)
  | skip _ hs => obtain ⟨-, rfl⟩ := hs; exact .inl ⟨rfl, rfl, rfl, rfl, rfl⟩
  | transfer _ _ hu _ ht =>
    subst ht
    obtain rfl | rfl := hu
    · exact .inl ⟨rfl, rfl, rfl, rfl, rfl⟩
    · exact .inl ⟨rfl, rfl, rfl, List.length_set, rfl⟩
  | pfx ht | tret ht => subst ht; exact .inl ⟨rfl, rfl, rfl, rfl, rfl⟩
  | save hx => exact .inl ((saved_keepsMachine s _).trans (windowException_keepsMachine hx))
  | restore hx => exact .inl ((restored_keepsMachine s).trans (windowException_keepsMachine hx))
  | trap hx => exact .inl (takeException_keepsMachine hx)
  | wrctl hu ht => exact .inr (.inr ⟨_, _, rfl, hu, ht⟩)

/-! ### Sequencing -/

/-- The part of the invariant that concerns PC, K and what is pending (10_state.md R27, R29, R46). -/
structure Sequenced (t : State) : Prop where
  pc : t.pc.toNat % 2 = 0
  ds : ∀ d, t.ds = some d → d.toNat % 2 = 0
  k : t.pfxd = false → t.k = 0
  afterPfx : t.pfxd = true → t.ds = none ∧ t.wstat = false
  afterWstat : t.wstat = true → t.ds = none

theorem EndsAt.sequenced {s t : State} {next : Addr} (h : EndsAt s t next) (hn : next.toNat % 2 = 0) : Sequenced t where
  pc := h.pc ▸ hn
  ds := by simp [h.ds]
  k _ := h.k
  afterPfx := by simp [h.pfxd]
  afterWstat _ := h.ds

theorem State.Inv.nextPc_even {s : State} (h : s.Inv) : s.nextPc.toNat % 2 = 0 := by
  unfold State.nextPc
  cases hd : s.ds with
  | none => exact add_even h.pc rfl
  | some d => exact h.ds d hd

/-- A retired state that enters an exception goes to a handler, at an even address. -/
theorem windowException_sequenced {s t : State} {e : ExcNum} {dec atLimit : Bool} (hs : Sequenced s)
    (h : windowException s atLimit e dec = .ok t) : Sequenced t := by
  obtain ⟨-, hx⟩ | ⟨-, rfl⟩ := windowException_eq_ok.1 h
  · exact (takeException_entered hx).ends.sequenced (byteAddress_even _)
  · exact hs

/-- WRCTL touches no register, PC or pending transfer. -/
theorem writeControl_keeps {s u : State} {k : BitVec 11} {v : Half} (h : writeControl s k v = .ok u) :
    u.pc = s.pc ∧ u.ds = s.ds ∧ u.cfg = s.cfg ∧ u.irqs = s.irqs ∧ u.regs = s.regs ∧ u.mem = s.mem := by
  obtain ⟨-, rfl⟩ | ⟨-, rfl⟩ | ⟨-, rfl⟩ | ⟨-, rfl⟩ | ⟨-, rfl⟩ := writeControl_eq_ok h
  case inr.inr.inl => cases s.cfg.wvalidWritable <;> simp
  all_goals exact ⟨rfl, rfl, rfl, rfl, rfl, rfl⟩

theorem writeControl_nextPc {s u : State} {k : BitVec 11} {v : Half} (h : writeControl s k v = .ok u) :
    u.nextPc = s.nextPc := by
  obtain ⟨hpc, hds, -⟩ := writeControl_keeps h
  rw [State.nextPc, hpc, hds, State.nextPc]

theorem Course.sequenced {i : Instr} {s t : State} (h : Course s t i) (hs : s.Inv) : Sequenced t := by
  cases h with
  | result _ ho => exact ho.ends.sequenced hs.nextPc_even
  | store _ _ hst => exact hst.ordinary.ends.sequenced hs.nextPc_even
  | @skip _ c _ hsk =>
    obtain ⟨-, rfl⟩ := hsk
    have hd : (if c then skipDistance (s.halfAt (s.pc + 2)) else 2).toNat % 2 = 0 := by
      unfold skipDistance; split <;> (try split) <;> rfl
    exact EndsAt.sequenced (s := s) ⟨rfl, rfl, rfl, rfl, rfl⟩ (add_even hs.pc hd)
  | @transfer _ u target _ _ hu he ht =>
    subst ht
    have hpc : u.nextPc.toNat % 2 = 0 := by obtain rfl | rfl := hu <;> exact hs.nextPc_even
    exact { pc := hpc
            ds := fun d hd => Option.some.inj hd ▸ he hs.pc
            k := fun _ => rfl
            afterPfx := fun hp => Bool.noConfusion hp
            afterWstat := fun hw => Bool.noConfusion hw }
  | pfx ht =>
    subst ht
    exact { pc := hs.nextPc_even
            ds := fun d hd => by cases hd
            k := fun hp => Bool.noConfusion hp
            afterPfx := fun _ => ⟨rfl, rfl⟩
            afterWstat := fun _ => rfl }
  | save hx | restore hx =>
    exact windowException_sequenced (EndsAt.sequenced (s := s) ⟨rfl, rfl, rfl, rfl, rfl⟩ hs.nextPc_even) hx
  | trap hx => exact (takeException_entered hx).ends.sequenced (byteAddress_even _)
  | tret ht => subst ht; exact EndsAt.sequenced (s := s) ⟨rfl, rfl, rfl, rfl, rfl⟩ (byteAddress_even _)
  | wrctl hu ht =>
    subst ht
    have hpc := (writeControl_nextPc hu).symm ▸ hs.nextPc_even
    exact { pc := hpc
            ds := fun d hd => by cases hd
            k := fun _ => rfl
            afterPfx := fun hp => Bool.noConfusion hp
            afterWstat := fun _ => rfl }

/-! ### The invariant -/

theorem Sequenced.inv {s t : State} (h : Sequenced t) (hs : s.Inv) (hc : t.cfg = s.cfg)
    (hr : t.regs.length = s.regs.length) (hw : t.wvalid.toNat < 2 ^ 10) (hm : t.mem.wf) : t.Inv where
  cfg := hc ▸ hs.cfg
  regs := by rw [hr, hs.regs, hc]
  pc := h.pc
  ds := h.ds
  k := h.k
  afterPfx := h.afterPfx
  afterWstat := h.afterWstat
  wvalid := hw
  mem := hm

theorem Stored.mem_wf {s t : State} {addr : Addr} {n : Nat} {write : Memory → Memory} (h : Stored s t addr n write)
    (hw : WritesBytes write addr.toNat n) (hc : s.cfg.legal) (hm : s.mem.wf) : t.mem.wf := by
  obtain ⟨hk, rfl⟩ | ⟨-, rfl⟩ := h
  · exact hw.wf _ (kindAt_bound hc hk) hm
  · exact hm

/-- WVALID's upper bits ignore writes (10_state.md R42). -/
theorem writeControl_wvalid_lt {s u : State} {k : BitVec 11} {v : Half} (h : writeControl s k v = .ok u)
    (hs : s.wvalid.toNat < 2 ^ 10) : u.wvalid.toNat < 2 ^ 10 := by
  obtain ⟨-, rfl⟩ | ⟨-, rfl⟩ | ⟨-, rfl⟩ | ⟨-, rfl⟩ | ⟨-, rfl⟩ := writeControl_eq_ok h
  case inr.inr.inl =>
    split
    · exact (BitVec.toNat_and v 0x03FF).trans_lt (Nat.and_lt_two_pow _ (by decide))
    · exact hs
  all_goals exact hs

theorem exec_inv {i : Instr} {s t : State} (hs : s.Inv) (h : exec i s = .next t) : t.Inv := by
  have hc := exec_course h
  have hseq := hc.sequenced hs
  obtain hk | ⟨addr, n, write, -, hw, hst⟩ | ⟨a, u, -, hu, rfl⟩ := hc.machine
  · exact hseq.inv hs hk.cfg hk.regs (hk.wvalid ▸ hs.wvalid) (hk.mem ▸ hs.mem)
  · have ho := hst.ordinary
    exact hseq.inv hs ho.system.cfg ho.regs (ho.system.wvalid ▸ hs.wvalid) (hst.mem_wf hw hs.cfg hs.mem)
  · obtain ⟨-, -, hcfg, -, hregs, hmem⟩ := writeControl_keeps hu
    have hwv := writeControl_wvalid_lt hu hs.wvalid
    exact hseq.inv hs hcfg (congrArg List.length hregs) hwv (hmem ▸ hs.mem)

theorem takeException_inv {s t : State} {n : ExcNum} {ret : Addr} {dec : Bool} (hs : s.Inv)
    (h : takeException s n ret dec = .ok t) : t.Inv := by
  have hk := takeException_keepsMachine h
  have hseq := (takeException_entered h).ends.sequenced (byteAddress_even _)
  exact hseq.inv hs hk.cfg hk.regs (hk.wvalid ▸ hs.wvalid) (hk.mem ▸ hs.mem)

/-- Sampling the input and fetching change nothing the invariant speaks of. -/
theorem sampled_inv {s : State} (h : s.Inv) : s.sampled.Inv :=
  ⟨h.cfg, h.regs, h.pc, h.ds, h.k, h.afterPfx, h.afterWstat, h.wvalid, h.mem⟩

theorem afterRead_inv {s : State} (h : s.Inv) (a : Addr) (n : Nat) : (s.afterRead a n).Inv :=
  ⟨h.cfg, h.regs, h.pc, h.ds, h.k, h.afterPfx, h.afterWstat, h.wvalid, h.mem⟩

/-- Settles O57: a step is an exception entry or an instruction, and both keep the invariant. -/
theorem stepKeepsInvariant : Obligations.StepKeepsInvariant := by
  intro s t hs h
  obtain ⟨n, hx⟩ | ⟨i, -, hi⟩ := step_next h
  · exact takeException_inv (sampled_inv hs) hx
  · exact exec_inv (afterRead_inv (sampled_inv hs) _ _) hi

/-! ### Who writes what -/

theorem skipTest_forbidden {s : State} {i : Instr} {c : Bool} (h : skipTest s i = some c) :
    forbiddenInSlot i = true := by
  cases i with
  | skp0 | skp1 | skprz | skprnz | skps => rfl
  | _ => cases h

theorem storeTarget_ne_pfx {s : State} {i : Instr} {p : Addr × Nat} (h : storeTarget s i = some p) (n : BitVec 11) :
    i ≠ .pfx n := by
  rintro rfl; cases h

theorem skipTest_ne_pfx {s : State} {i : Instr} {c : Bool} (h : skipTest s i = some c) (n : BitVec 11) :
    i ≠ .pfx n := by
  rintro rfl; cases h

/-- SAVE and RESTORE end as every step that is not PFX, be it at the handler. -/
theorem windowException_ends {s t : State} {e : ExcNum} {dec atLimit : Bool} (hs : EndsAt s s s.pc)
    (h : windowException s atLimit e dec = .ok t) : EndsAt s t t.pc := by
  obtain ⟨-, hx⟩ | ⟨-, rfl⟩ := windowException_eq_ok.1 h
  · have he := (takeException_entered hx).ends
    rwa [← he.pc] at he
  · exact hs

/-- Settles O20: PFX alone ends with K and PFXD set. -/
theorem prefixLastsOneInstruction : Obligations.PrefixLastsOneInstruction := by
  intro i s t h
  cases exec_course h with
  | pfx ht => subst ht; exact .inl ⟨_, rfl, rfl, rfl⟩
  | result hp ho => exact .inr ⟨hp, ho.ends.k, ho.ends.pfxd⟩
  | store ht _ hst => exact .inr ⟨storeTarget_ne_pfx ht, hst.ordinary.ends.k, hst.ordinary.ends.pfxd⟩
  | skip ht hsk => obtain ⟨-, rfl⟩ := hsk; exact .inr ⟨skipTest_ne_pfx ht, rfl, rfl⟩
  | transfer hp _ _ _ ht => subst ht; exact .inr ⟨hp, rfl, rfl⟩
  | save hx | restore hx =>
    have he := windowException_ends ⟨rfl, rfl, rfl, rfl, rfl⟩ hx
    exact .inr ⟨by simp, he.k, he.pfxd⟩
  | trap hx =>
    have he := (takeException_entered hx).ends
    exact .inr ⟨by simp, he.k, he.pfxd⟩
  | tret ht | wrctl _ ht => subst ht; exact .inr ⟨by simp, rfl, rfl⟩

/-- Settles O33: outside the twelve, SAVE and RESTORE, control goes where the step was bound to go. -/
theorem delaySlotReachesTarget : Obligations.DelaySlotReachesTarget := by
  intro i s t hf hsave hrestore h
  suffices hend : t.pc = s.nextPc ∧ t.ds = none by
    obtain ⟨hpc, hds⟩ := hend
    rw [hpc]
    exact ⟨fun target hd => by rw [State.nextPc, hd]; rfl, fun hd => by rw [State.nextPc, hd]; rfl, hds⟩
  cases exec_course h with
  | result _ ho => exact ⟨ho.ends.pc, ho.ends.ds⟩
  | store _ _ hst => exact ⟨hst.ordinary.ends.pc, hst.ordinary.ends.ds⟩
  | wrctl hu ht => subst ht; exact ⟨writeControl_nextPc hu, rfl⟩
  | skip ht => rw [skipTest_forbidden ht] at hf; cases hf
  | transfer _ hf' => rw [hf'] at hf; cases hf
  | pfx | trap | tret => cases hf
  | save => exact absurd rfl (hsave _)
  | restore => exact absurd rfl hrestore

theorem windowException_flags {s t : State} {e : ExcNum} {dec atLimit : Bool}
    (h : windowException s atLimit e dec = .ok t) : t.flags = s.flags := by
  obtain ⟨-, hx⟩ | ⟨-, rfl⟩ := windowException_eq_ok.1 h
  · exact (takeException_entered hx).flags
  · rfl

/-- A move of the window keeps the condition codes (10_state.md R39). -/
theorem State.setCwp_flags (s : State) (c : BitVec 5) : (s.setCwp c).flags = s.flags :=
  statusFlags_mkStatus_nvzc ..

/-- The instructions that move the window or replace STATUS (47_system.md R297). -/
theorem Course.mode {i : Instr} {s t : State} (h : Course s t i)
    (hne : t.ie ≠ s.ie ∨ t.ipri ≠ s.ipri ∨ t.cwp ≠ s.cwp) :
    (∃ imm8, i = .save imm8) ∨ i = .restore ∨ (∃ imm6, i = .trap imm6) ∨ (∃ a, i = .tret a) ∨ ∃ a, i = .wrctl a := by
  have hkeep (h : t.ie = s.ie ∧ t.ipri = s.ipri ∧ t.cwp = s.cwp) : False := by
    obtain ⟨hie, hipri, hcwp⟩ := h
    simp [hie, hipri, hcwp] at hne
  cases h with
  | save => exact .inl ⟨_, rfl⟩
  | restore => exact .inr (.inl rfl)
  | trap => exact .inr (.inr (.inl ⟨_, rfl⟩))
  | tret => exact .inr (.inr (.inr (.inl ⟨_, rfl⟩)))
  | wrctl => exact .inr (.inr (.inr (.inr ⟨_, rfl⟩)))
  | result _ ho => exact (hkeep ⟨ho.ie, ho.ipri, ho.cwp⟩).elim
  | store _ _ hst =>
    have ho := hst.ordinary
    exact (hkeep ⟨ho.ie, ho.ipri, ho.cwp⟩).elim
  | skip _ hsk => obtain ⟨-, rfl⟩ := hsk; exact (hkeep ⟨rfl, rfl, rfl⟩).elim
  | transfer _ _ hu _ ht =>
    subst ht
    obtain rfl | rfl := hu <;> exact (hkeep ⟨rfl, rfl, rfl⟩).elim
  | pfx ht => subst ht; exact (hkeep ⟨rfl, rfl, rfl⟩).elim

/-- Only the instructions that compute condition codes or replace STATUS change them (10_state.md R40). -/
theorem Course.flags {i : Instr} {s t : State} (h : Course s t i) (hne : t.flags ≠ s.flags) :
    setsFlags i = true ∨ (∃ a, i = .tret a) ∨ ∃ a, i = .wrctl a := by
  cases h with
  | result _ _ _ hf =>
    cases hi : setsFlags i with
    | true => exact .inl rfl
    | false => exact absurd (hf hi) hne
  | tret => exact .inr (.inl ⟨_, rfl⟩)
  | wrctl => exact .inr (.inr ⟨_, rfl⟩)
  | store _ _ hst => obtain ⟨-, rfl⟩ | ⟨-, rfl⟩ := hst <;> exact absurd rfl hne
  | skip _ hsk => obtain ⟨-, rfl⟩ := hsk; exact absurd rfl hne
  | transfer _ _ hu _ ht => subst ht; obtain rfl | rfl := hu <;> exact absurd rfl hne
  | pfx ht => subst ht; exact absurd rfl hne
  | save hx | restore hx => exact absurd ((windowException_flags hx).trans (State.setCwp_flags ..)) hne
  | trap hx => exact absurd (takeException_entered hx).flags hne

/-- Settles O51. -/
theorem statusWriters : Obligations.StatusWriters := by
  intro i s t h
  refine ⟨(exec_course h).mode, fun hne => ?_⟩
  obtain hf | ⟨a, rfl⟩ | ⟨a, rfl⟩ := (exec_course h).flags hne
  · cases i with
    | add a b | addi a b | sub a b | subi a b | cmp a b | cmpi a b | and a b | andn a b | or a b | xor a b =>
      exact .inl ⟨a, b, by simp⟩
    | rlc a | rrc a => exact .inr ⟨a, by simp⟩
    | _ => cases hf
  · exact .inr ⟨a, by simp⟩
  · exact .inr ⟨a, by simp⟩

/-- The handler does not depend on what an instruction before the exception did to the registers or STATUS. -/
theorem handlerOf_congr {s m : State} (hc : m.cfg = s.cfg) (hf : m.free = s.free) (hm : m.mem = s.mem) (n : ExcNum) :
    handlerOf m n = handlerOf s n := by
  simp only [handlerOf, vectorAddress, State.wordAt, peripheralWord, hc, hf, hm]

/-- A window exception that replaces ISTATUS goes to its handler. -/
theorem windowException_istatus {s t : State} {e : ExcNum} {dec atLimit : Bool}
    (h : windowException s atLimit e dec = .ok t) (hne : t.istatus ≠ s.istatus) : t.pc = handlerOf s e := by
  obtain ⟨-, hx⟩ | ⟨-, rfl⟩ := windowException_eq_ok.1 h
  · exact (takeException_entered hx).ends.pc
  · exact absurd rfl hne

theorem writeControl_istatus {s u : State} {k : BitVec 11} {v : Half} (h : writeControl s k v = .ok u)
    (hne : u.istatus ≠ s.istatus) : k = 1 := by
  obtain ⟨-, rfl⟩ | ⟨hk, -⟩ | ⟨-, rfl⟩ | ⟨-, rfl⟩ | ⟨-, rfl⟩ := writeControl_eq_ok h
  · exact absurd rfl hne
  · exact hk
  · split at hne <;> exact absurd rfl hne
  · exact absurd rfl hne
  · exact absurd rfl hne

theorem writeControl_writable {s u : State} {k : BitVec 11} {v : Half} (h : writeControl s k v = .ok u)
    (hne : u.wvalid ≠ s.wvalid) : k = 2 ∧ s.cfg.wvalidWritable = true := by
  obtain ⟨-, rfl⟩ | ⟨-, rfl⟩ | ⟨hk, rfl⟩ | ⟨-, rfl⟩ | ⟨-, rfl⟩ := writeControl_eq_ok h
  · exact absurd rfl hne
  · exact absurd rfl hne
  · split at hne
    · exact ⟨hk, by assumption⟩
    · exact absurd rfl hne
  · exact absurd rfl hne
  · exact absurd rfl hne

theorem Course.istatus {i : Instr} {s t : State} (h : Course s t i) (hne : t.istatus ≠ s.istatus) :
    (∃ imm8, i = .save imm8 ∧ t.pc = handlerOf s 1) ∨ (i = .restore ∧ t.pc = handlerOf s 2) ∨
      (∃ imm6, i = .trap imm6) ∨ ∃ a, i = .wrctl a ∧ s.k = 1 := by
  cases h with
  | save hx =>
    exact .inl ⟨_, rfl, (windowException_istatus hx hne).trans (handlerOf_congr rfl rfl rfl 1)⟩
  | restore hx =>
    exact .inr (.inl ⟨rfl, (windowException_istatus hx hne).trans (handlerOf_congr rfl rfl rfl 2)⟩)
  | trap => exact .inr (.inr (.inl ⟨_, rfl⟩))
  | wrctl hu ht =>
    subst ht
    exact .inr (.inr (.inr ⟨_, rfl, writeControl_istatus hu hne⟩))
  | result _ ho => exact absurd ho.system.istatus hne
  | store _ _ hst => exact absurd hst.ordinary.system.istatus hne
  | skip _ hsk => obtain ⟨-, rfl⟩ := hsk; exact absurd rfl hne
  | transfer _ _ hu _ ht => subst ht; obtain rfl | rfl := hu <;> exact absurd rfl hne
  | pfx ht | tret ht => subst ht; exact absurd rfl hne

/-- Settles O52. -/
theorem systemRegisterWriters : Obligations.SystemRegisterWriters := by
  intro i s t h
  have hc := exec_course h
  suffices hm : t.cfg = s.cfg ∧ t.irqs = s.irqs ∧
      (t.wvalid ≠ s.wvalid → ∃ a, i = .wrctl a ∧ s.k = 2 ∧ s.cfg.wvalidWritable = true) from
    ⟨hm.1, hm.2.1, hc.istatus, hm.2.2⟩
  obtain hk | ⟨addr, n, write, -, -, hst⟩ | ⟨a, u, rfl, hu, rfl⟩ := hc.machine
  · exact ⟨hk.cfg, hk.irqs, fun hne => absurd hk.wvalid hne⟩
  · have hsys := hst.ordinary.system
    exact ⟨hsys.cfg, hsys.irqs, fun hne => absurd hsys.wvalid hne⟩
  · obtain ⟨-, -, hcfg, hirqs, -, -⟩ := writeControl_keeps hu
    exact ⟨hcfg, hirqs, fun hne => ⟨a, rfl, writeControl_writable hu hne⟩⟩

/-- Plain memory that can be written lies in a RAM region of the map. -/
theorem kindAt_ram {c : Config} {a : Addr} {n : Nat} (h : kindAt c a n = some .ram) :
    ∃ region ∈ c.map, region.kind = .ram ∧ region.base ≤ a.toNat ∧ a.toNat + n ≤ region.base + region.size := by
  obtain ⟨r, hr, hkind⟩ := Option.map_eq_some_iff.1 h
  have hholds := List.find?_some hr
  simp only [regionHolds, Bool.and_eq_true, decide_eq_true_eq] at hholds
  exact ⟨r, List.mem_of_find?_eq_some hr, hkind, hholds.1, hholds.2⟩

/-- Settles O53: the byte lies in what a store writes, and the store has gone to RAM. -/
theorem onlyStoresChangeRam : Obligations.OnlyStoresChangeRam := by
  intro i s t b h hne
  obtain hk | ⟨addr, n, write, ht, hw, hst⟩ | ⟨a, u, -, hu, rfl⟩ := (exec_course h).machine
  · exact absurd (congrArg (Memory.get · b) hk.mem) hne
  · obtain ⟨hram, rfl⟩ | ⟨-, rfl⟩ := hst
    · have hin : addr.toNat ≤ b ∧ b < addr.toNat + n := by
        by_contra hout
        exact hne (hw.other s.mem b (by omega))
      obtain ⟨region, hmem, hkind, hlow, hhigh⟩ := kindAt_ram hram
      exact ⟨addr, n, ht, hin.1, hin.2, region, hmem, hkind, by omega, by omega⟩
    · exact absurd rfl hne
  · obtain ⟨-, -, -, -, -, hmem⟩ := writeControl_keeps hu
    exact absurd (congrArg (Memory.get · b) hmem) hne

end Sys2Proof.Machine
end

/-! ## Instructions with a register result or condition codes (40, 41, 42, 43, 44) -/

section
namespace Sys2Proof.Machine

/-! ### The shapes complete with their result -/

theorem updateReg_completes {s : State} {a : Reg} {v : Word} (f : Word → Word) (hw : s.wstat = false)
    (ha : s.visible a) (hv : f (s.x a) = v) : Completes (updateReg s a f) fun t => ResultIs s t a v s.flags :=
  ⟨_, updateReg_eq_next.2 ⟨hw, ha, rfl⟩, hv ▸ afterWrite_resultIs _ ha⟩

theorem combineRegs_completes {s : State} {a b : Reg} {v : Word} (f : Word → Word → Word) (hw : s.wstat = false)
    (ha : s.visible a) (hb : s.visible b) (hv : f (s.x a) (s.x b) = v) :
    Completes (combineRegs s a b f) fun t => ResultIs s t a v s.flags :=
  ⟨_, combineRegs_eq_next.2 ⟨hw, ha, hb, rfl⟩, hv ▸ afterWrite_resultIs _ ha⟩

theorem accumulate_completes {s : State} {a : Reg} {v : Word} (f : Word → Word → Word) (hw : s.wstat = false)
    (h0 : s.visible 0) (ha : s.visible a) (hv : f (s.x 0) (s.x a) = v) :
    Completes (accumulate s a f) fun t => ResultIs s t 0 v s.flags :=
  ⟨_, accumulate_eq_next.2 ⟨hw, h0, ha, rfl⟩, hv ▸ afterWrite_resultIs _ h0⟩

theorem ordinary_write_completes {s : State} {a : Reg} {v w : Word} (hw : s.wstat = false) (ha : s.visible a)
    (hv : v = w) : Completes (ordinary s (writeReg s a v)) fun t => ResultIs s t a w s.flags :=
  ⟨_, ordinary_ok hw (writeReg_visible ha), hv ▸ afterWrite_resultIs _ ha⟩

theorem addTo_completes {s : State} {a : Reg} {operand : Except Refusal Word} {y : Word} (hw : s.wstat = false)
    (ha : s.visible a) (hy : operand = .ok y) :
    Completes (addTo s a operand) fun t => ResultIs s t a (s.x a + y) (addFlags (s.x a) y) :=
  ⟨_, addTo_eq_next.2 ⟨hw, ha, y, hy, rfl⟩, afterWriteFlags_resultIs _ _ ha⟩

theorem subtractFrom_completes {s : State} {a : Reg} {operand : Except Refusal Word} {y : Word}
    (hw : s.wstat = false) (ha : s.visible a) (hy : operand = .ok y) :
    Completes (subtractFrom s a operand) fun t => ResultIs s t a (s.x a - y) (subFlags (s.x a) y) :=
  ⟨_, subtractFrom_eq_next.2 ⟨hw, ha, y, hy, rfl⟩, afterWriteFlags_resultIs _ _ ha⟩

theorem compareWith_completes {s : State} {a : Reg} {operand : Except Refusal Word} {y : Word}
    (hw : s.wstat = false) (ha : s.visible a) (hy : operand = .ok y) :
    Completes (compareWith s a operand) fun t => FlagsAre s t (subFlags (s.x a) y) :=
  ⟨_, compareWith_eq_next.2 ⟨hw, ha, y, hy, rfl⟩, afterFlags_flagsAre s _⟩

theorem immediate_ok (s : State) (imm5 : BitVec 5) :
    (.ok (immediate s imm5) : Except Refusal Word) = .ok (constant s imm5) := by rw [immediate_eq_constant]

/-! ### Addition, subtraction and comparison -/

/-- Settles O9. -/
theorem addResult : Obligations.AddResult := fun s _ _ imm5 hw ha =>
  ⟨fun hb => addTo_completes hw ha (readReg_visible hb), addTo_completes hw ha (immediate_ok s imm5)⟩

/-- Settles O10. -/
theorem subtractResult : Obligations.SubtractResult := fun s _ _ imm5 hw ha =>
  ⟨fun hb => subtractFrom_completes hw ha (readReg_visible hb), subtractFrom_completes hw ha (immediate_ok s imm5)⟩

/-- Settles O11. -/
theorem compareResult : Obligations.CompareResult := fun s _ _ imm5 hw ha =>
  ⟨fun hb => compareWith_completes hw ha (readReg_visible hb), compareWith_completes hw ha (immediate_ok s imm5)⟩

/-! ### The flags as statements about exact results (10_state.md Table 7) -/

theorem addOverflow_eq (a b : Word) :
    (addFlags a b).v = decide (a.toInt + b.toInt < -2 ^ 31 ∨ 2 ^ 31 ≤ a.toInt + b.toInt) := by
  have h : (addFlags a b).v = a.saddOverflow b := (BitVec.saddOverflow_eq a b).symm
  rw [h, BitVec.saddOverflow, ← Bool.decide_or]
  exact decide_eq_decide.2 or_comm

theorem subOverflow_eq (a b : Word) :
    (subFlags a b).v = decide (a.toInt - b.toInt < -2 ^ 31 ∨ 2 ^ 31 ≤ a.toInt - b.toInt) := by
  have h : (subFlags a b).v = a.ssubOverflow b := by
    rw [BitVec.ssubOverflow_eq, subFlags]
    cases a.msb <;> cases b.msb <;> cases (a - b).msb <;> rfl
  rw [h, BitVec.ssubOverflow, ← Bool.decide_or]
  exact decide_eq_decide.2 or_comm

/-- Settles O8. -/
theorem flagsAreExact : Obligations.FlagsAreExact := by
  intro a b
  refine ⟨?addN, addOverflow_eq a b, ?addZ, rfl, ?subN, subOverflow_eq a b, ?subZ, rfl⟩
  case addN => exact BitVec.msb_eq_toInt (x := a + b)
  case subN => exact BitVec.msb_eq_toInt (x := a - b)
  case addZ => exact (beq_eq_decide _ _).trans (decide_eq_decide.2 (by bv_omega))
  case subZ => exact (beq_eq_decide _ _).trans (decide_eq_decide.2 (by bv_omega))

/-! ### Results as arithmetic -/

theorem neg_eq_ofInt (x : Word) : 0 - x = BitVec.ofInt 32 (-x.toInt) := by
  rw [BitVec.ofInt_neg, BitVec.ofInt_toInt]; exact BitVec.zero_sub x

theorem abs_eq_ofNat (x : Word) : (if x.msb then 0 - x else x) = BitVec.ofNat 32 x.toInt.natAbs := by
  rw [← BitVec.ofInt_natCast, BitVec.msb_eq_toInt]
  by_cases hx : x.toInt < 0
  · rw [if_pos (by simpa using hx), neg_eq_ofInt, Int.ofNat_natAbs_of_nonpos hx.le]
  · rw [if_neg (by simpa using hx), Int.natAbs_of_nonneg (not_lt.1 hx), BitVec.ofInt_toInt]

theorem mul_eq_ofNat (t m : Word) :
    (t &&& 0xFFFF) * (m &&& 0xFFFF) = BitVec.ofNat 32 ((t.toNat % 2 ^ 16) * (m.toNat % 2 ^ 16)) := by
  have hlow (x : Word) : (x &&& 0xFFFF).toNat = x.toNat % 2 ^ 16 :=
    (BitVec.toNat_and x 0xFFFF).trans (Nat.and_two_pow_sub_one_eq_mod x.toNat 16)
  apply BitVec.eq_of_toNat_eq
  rw [BitVec.toNat_mul, hlow, hlow, BitVec.toNat_ofNat]

/-- The bit that MSTEP tests, and the two sums it chooses from. -/
theorem mstep_eq_ofNat (t m : Word) :
    (if t.msb then (t <<< 1) + m else t <<< 1) =
      BitVec.ofNat 32 (2 * t.toNat + if 2 ^ 31 ≤ t.toNat then m.toNat else 0) := by
  apply BitVec.eq_of_toNat_eq
  rw [BitVec.msb_eq_decide]
  by_cases ht : 2 ^ 31 ≤ t.toNat
  · simp only [ht, decide_true, if_true, BitVec.toNat_add, BitVec.toNat_shiftLeft, Nat.shiftLeft_eq, BitVec.toNat_ofNat]
    omega
  · simp only [ht, decide_false, Bool.false_eq_true, if_false, BitVec.toNat_shiftLeft, Nat.shiftLeft_eq,
      BitVec.toNat_ofNat]
    omega

theorem shiftLeft_eq_ofNat (x : Word) (n : Nat) : x <<< n = BitVec.ofNat 32 (x.toNat * 2 ^ n) := by
  apply BitVec.eq_of_toNat_eq
  rw [BitVec.toNat_shiftLeft, Nat.shiftLeft_eq, BitVec.toNat_ofNat]

theorem shiftRight_eq_ofNat (x : Word) (n : Nat) : x >>> n = BitVec.ofNat 32 (x.toNat / 2 ^ n) := by
  apply BitVec.eq_of_toNat_eq
  have hlt := (Nat.div_le_self x.toNat (2 ^ n)).trans_lt x.isLt
  rw [BitVec.toNat_ushiftRight, Nat.shiftRight_eq_div_pow, BitVec.toNat_ofNat, Nat.mod_eq_of_lt hlt]

theorem sshiftRight_eq_ofInt (x : Word) (n : Nat) : x.sshiftRight n = BitVec.ofInt 32 (x.toInt / 2 ^ n) := by
  rw [BitVec.sshiftRight_eq, Int.shiftRight_eq_div_pow]; norm_cast

theorem toNat_shiftCount (y : Word) : (shiftCount y).toNat = y.toNat % 32 := by
  rw [shiftCount, toNat_extractLsb'_div]; simp

theorem toNat_byteLane (x : Word) (n : BitVec 2) : (byteLane x n).toNat = x.toNat / 256 ^ n.toNat % 256 := by
  rw [byteLane, toNat_extractLsb'_div, Nat.pow_mul]; rfl

theorem toNat_halfLane (x : Word) (n : BitVec 1) : (halfLane x n).toNat = x.toNat / 65536 ^ n.toNat % 65536 := by
  rw [halfLane, toNat_extractLsb'_div, Nat.pow_mul]; rfl

theorem toNat_byteLane_zero (x : Word) : (byteLane x 0).toNat = x.toNat % 256 :=
  (toNat_byteLane x 0).trans (by simp)

theorem toNat_halfLane_zero (x : Word) : (halfLane x 0).toNat = x.toNat % 65536 :=
  (toNat_halfLane x 0).trans (by simp)

theorem toNat_halfLane_one (x : Word) : (halfLane x 1).toNat = x.toNat / 65536 := by
  have hx := x.isLt
  rw [toNat_halfLane]; simp; omega

/-- A value below 2^n beside a multiple of 2^n: or is addition. -/
theorem mul_two_pow_or {n b : Nat} (a : Nat) (h : b < 2 ^ n) : a * 2 ^ n ||| b = a * 2 ^ n + b := by
  rw [← Nat.shiftLeft_eq, Nat.shiftLeft_add_eq_or_of_lt h]

theorem toNat_ofBool_lt (c : Bool) : (BitVec.ofBool c).toNat < 2 := (BitVec.ofBool c).isLt

theorem toNat_ofBool_getLsbD (x : Word) (i : Nat) : (BitVec.ofBool (x.getLsbD i)).toNat = x.toNat / 2 ^ i % 2 := by
  rw [BitVec.getLsbD, BitVec.toNat_ofBool, Nat.testBit_eq_decide_div_mod_eq]
  rcases Nat.mod_two_eq_zero_or_one (x.toNat / 2 ^ i) with h | h <;> simp [h]

theorem rotateLeft_one_eq (c : Bool) (x : Word) :
    BitVec.ofBool (x.getLsbD 31) ++ ((x.extractLsb' 0 31 : BitVec 31) ++ BitVec.ofBool c : Word) =
      (BitVec.ofBool c ++ x).rotateLeft 1 := by
  apply BitVec.eq_of_toNat_eq
  have hc := toNat_ofBool_lt c
  have hx := x.isLt
  have hwrap : (BitVec.ofBool c ++ x).toNat * 2 ^ 1 % 2 ^ 33 = x.toNat * 2 ^ 1 := by
    rw [toNat_append_add]; omega
  have htop : (BitVec.ofBool c ++ x).toNat / 2 ^ 32 = (BitVec.ofBool c).toNat := by
    rw [toNat_append_add]; omega
  rw [BitVec.toNat_rotateLeft, Nat.shiftLeft_eq, Nat.shiftRight_eq_div_pow]
  change _ = (BitVec.ofBool c ++ x).toNat * 2 ^ 1 % 2 ^ 33 ||| (BitVec.ofBool c ++ x).toNat / 2 ^ 32
  rw [hwrap, htop, mul_two_pow_or _ hc]
  simp only [toNat_append_add, toNat_extractLsb'_div, toNat_ofBool_getLsbD]
  omega

theorem rotateRight_one_eq (c : Bool) (x : Word) :
    BitVec.ofBool (x.getLsbD 0) ++ (BitVec.ofBool c ++ (x.extractLsb' 1 31 : BitVec 31) : Word) =
      (BitVec.ofBool c ++ x).rotateRight 1 := by
  apply BitVec.eq_of_toNat_eq
  have hc := toNat_ofBool_lt c
  have hx := x.isLt
  have hlow : (BitVec.ofBool c ++ x).toNat / 2 ^ 1 < 2 ^ 32 := by
    rw [toNat_append_add]; omega
  have hwrap : (BitVec.ofBool c ++ x).toNat * 2 ^ 32 % 2 ^ 33 = x.toNat % 2 * 2 ^ 32 := by
    rw [toNat_append_add]; omega
  rw [BitVec.toNat_rotateRight, Nat.shiftLeft_eq, Nat.shiftRight_eq_div_pow]
  change _ = (BitVec.ofBool c ++ x).toNat / 2 ^ 1 ||| (BitVec.ofBool c ++ x).toNat * 2 ^ 32 % 2 ^ 33
  rw [hwrap, Nat.or_comm, mul_two_pow_or _ hlow]
  simp only [toNat_append_add, toNat_extractLsb'_div, toNat_ofBool_getLsbD]
  omega

theorem movhi_eq_ofNat (s : State) (imm5 : BitVec 5) (x : Word) :
    imm16 s imm5 ++ halfLane x 0 =
      BitVec.ofNat 32 (2 ^ 16 * (32 * s.k.toNat + imm5.toNat) + x.toNat % 2 ^ 16) := by
  apply BitVec.eq_of_toNat_eq
  rw [toNat_append_add, toNat_halfLane_zero, imm16, toNat_append_add, BitVec.toNat_ofNat]
  omega

theorem swap_eq_rotateLeft (x : Word) : (halfLane x 0 ++ halfLane x 1 : Word) = x.rotateLeft 16 := by
  apply BitVec.eq_of_toNat_eq
  have hx := x.isLt
  have hwrap : x.toNat * 2 ^ 16 % 2 ^ 32 = x.toNat % 65536 * 2 ^ 16 := by omega
  have hhigh : x.toNat / 2 ^ 16 < 2 ^ 16 := by omega
  rw [BitVec.toNat_rotateLeft, Nat.shiftLeft_eq, Nat.shiftRight_eq_div_pow]
  change _ = x.toNat * 2 ^ 16 % 2 ^ 32 ||| x.toNat / 2 ^ 16
  rw [hwrap, mul_two_pow_or _ hhigh, toNat_append_add, toNat_halfLane_zero, toNat_halfLane_one]; rfl

theorem not_eq_ofNat (x : Word) : ~~~x = BitVec.ofNat 32 (2 ^ 32 - 1 - x.toNat) := by
  apply BitVec.eq_of_toNat_eq
  rw [BitVec.toNat_not, BitVec.toNat_ofNat]; omega

theorem byteLane_eq_ofNat (x : Word) (n : BitVec 2) :
    (byteLane x n).setWidth 32 = BitVec.ofNat 32 (x.toNat / 256 ^ n.toNat % 256) := by
  apply BitVec.eq_of_toNat_eq
  rw [BitVec.toNat_setWidth, BitVec.toNat_ofNat, toNat_byteLane]

theorem halfLane_eq_ofNat (x : Word) (n : BitVec 1) :
    (halfLane x n).setWidth 32 = BitVec.ofNat 32 (x.toNat / 65536 ^ n.toNat % 65536) := by
  apply BitVec.eq_of_toNat_eq
  rw [BitVec.toNat_setWidth, BitVec.toNat_ofNat, toNat_halfLane]

theorem sext_byteLane_eq_ofInt (x : Word) : sext (byteLane x 0) = BitVec.ofInt 32 ((x.toNat : Int).bmod 256) := by
  have hint : (byteLane x 0).toInt = (x.toNat : Int).bmod 256 := by
    rw [BitVec.toInt_eq_toNat_bmod, toNat_byteLane_zero, Int.natCast_emod]; exact Int.emod_bmod _ 256
  rw [sext, BitVec.signExtend, hint]

theorem sext_halfLane_eq_ofInt (x : Word) : sext (halfLane x 0) = BitVec.ofInt 32 ((x.toNat : Int).bmod 65536) := by
  have hint : (halfLane x 0).toInt = (x.toNat : Int).bmod 65536 := by
    rw [BitVec.toInt_eq_toNat_bmod, toNat_halfLane_zero, Int.natCast_emod]; exact Int.emod_bmod _ 65536
  rw [sext, BitVec.signExtend, hint]

theorem fill8_eq_ofNat (x : Word) :
    (byteLane x 0 ++ byteLane x 0 ++ byteLane x 0 ++ byteLane x 0 : Word) =
      BitVec.ofNat 32 (x.toNat % 256 * 0x01010101) := by
  apply BitVec.eq_of_toNat_eq
  simp only [toNat_append_add, toNat_byteLane_zero, BitVec.toNat_ofNat]
  omega

theorem fill16_eq_ofNat (x : Word) :
    (halfLane x 0 ++ halfLane x 0 : Word) = BitVec.ofNat 32 (x.toNat % 65536 * 0x00010001) := by
  apply BitVec.eq_of_toNat_eq
  simp only [toNat_append_add, toNat_halfLane_zero, BitVec.toNat_ofNat]
  omega

/-! ### The obligations on one result -/

/-- Settles O12. -/
theorem negateResult : Obligations.NegateResult := fun _ _ hw ha =>
  ⟨updateReg_completes (fun x => 0 - x) hw ha (neg_eq_ofInt _),
    updateReg_completes (fun x => if x.msb then 0 - x else x) hw ha (abs_eq_ofNat _)⟩

/-- Settles O13: the two differ from the other accumulating instructions in being configured. -/
theorem multiplyResult : Obligations.MultiplyResult := by
  intro s a hw ha h0
  refine ⟨fun hmul => ?mul, fun hmstep => ?mstep⟩
  case mul =>
    have hexec : exec (.mul a) s = accumulate s a (fun t m => (t &&& 0xFFFF) * (m &&& 0xFFFF)) := if_pos hmul
    exact hexec ▸ accumulate_completes _ hw h0 ha (mul_eq_ofNat _ _)
  case mstep =>
    have hexec : exec (.mstep a) s = accumulate s a (fun t m => if t.msb then (t <<< 1) + m else t <<< 1) :=
      if_pos hmstep
    exact hexec ▸ accumulate_completes _ hw h0 ha (mstep_eq_ofNat _ _)

/-- Settles O15. -/
theorem shiftByRegister : Obligations.ShiftByRegister := by
  intro s a b hw ha hb
  rw [← toNat_shiftCount]
  exact ⟨combineRegs_completes (fun x y => x <<< (shiftCount y).toNat) hw ha hb (shiftLeft_eq_ofNat _ _),
    combineRegs_completes (fun x y => x >>> (shiftCount y).toNat) hw ha hb (shiftRight_eq_ofNat _ _),
    combineRegs_completes (fun x y => x.sshiftRight (shiftCount y).toNat) hw ha hb (sshiftRight_eq_ofInt _ _)⟩

/-- Settles O16. -/
theorem shiftByImmediate : Obligations.ShiftByImmediate := fun _ _ imm5 hw ha =>
  ⟨updateReg_completes (fun x => x <<< imm5.toNat) hw ha (shiftLeft_eq_ofNat _ _),
    updateReg_completes (fun x => x >>> imm5.toNat) hw ha (shiftRight_eq_ofNat _ _),
    updateReg_completes (fun x => x.sshiftRight imm5.toNat) hw ha (sshiftRight_eq_ofInt _ _)⟩

/-- A rotate writes register A and C. -/
theorem rotate_completes {s : State} {a : Reg} (v : Word → Word) (c : Word → Bool) (hw : s.wstat = false)
    (ha : s.visible a) {r : BitVec 33} (hr : BitVec.ofBool (c (s.x a)) ++ v (s.x a) = r) :
    Completes (ordinary s do
      let x ← readReg s a
      let t ← writeReg s a (v x)
      pure (t.setFlags (carryFlag s.flags (c x)))) fun t =>
        ResultIs s t a (t.x a) { s.flags with c := t.flags.c } ∧ BitVec.ofBool t.flags.c ++ t.x a = r := by
  have hres := afterWriteFlags_resultIs (v (s.x a)) (carryFlag s.flags (c (s.x a))) ha
  obtain ⟨hflags, -, -, hcwp⟩ := hres.flags
  refine ⟨afterWriteFlags s a (v (s.x a)) (carryFlag s.flags (c (s.x a))), ordinary_ok hw ?_, ?_⟩
  · rw [readReg_visible ha, except_ok_bind, writeReg_visible ha]; rfl
  · beta_reduce
    rw [hres.reg.x hcwp, hflags]
    exact ⟨hres, hr⟩

/-- Settles O17. -/
theorem rotateThroughCarry : Obligations.RotateThroughCarry := fun s _ hw ha =>
  ⟨rotate_completes (fun x => (x.extractLsb' 0 31 : BitVec 31) ++ BitVec.ofBool s.flags.c) (fun x => x.getLsbD 31) hw ha
      (rotateLeft_one_eq _ _),
    rotate_completes (fun x => BitVec.ofBool s.flags.c ++ (x.extractLsb' 1 31 : BitVec 31)) (fun x => x.getLsbD 0) hw ha
      (rotateRight_one_eq _ _)⟩

/-- MOV runs where no WRCTL to STATUS has just run, and as NOP there too. -/
theorem exec_mov_ok {s : State} {a b : Reg} (hw : (a = 0 ∧ b = 0) ∨ s.wstat = false) (ha : s.visible a)
    (hb : s.visible b) : exec (.mov a b) s = .next (afterWrite s a (s.x b)) := by
  have hreq : requireNopAfterWstat s (decide (a = 0 ∧ b = 0)) = .ok () := by
    unfold requireNopAfterWstat
    split
    · rfl
    · exact requireNoWstat_eq_ok.2 (hw.resolve_left (by simp_all))
  change execMov a b s = _
  simp only [execMov, hreq, except_ok_bind, readReg_visible hb, writeReg_visible ha, except_pure, answer_ok]

/-- Settles O18. -/
theorem moveResult : Obligations.MoveResult := fun s _ _ imm5 hw ha =>
  ⟨fun hb => ⟨_, exec_mov_ok (.inr hw) ha hb, afterWrite_resultIs _ ha⟩,
    ordinary_write_completes hw ha (immediate_eq_constant s imm5),
    updateReg_completes (fun x => imm16 s imm5 ++ halfLane x 0) hw ha (movhi_eq_ofNat s imm5 _),
    updateReg_completes (fun x => halfLane x 0 ++ halfLane x 1) hw ha (swap_eq_rotateLeft _)⟩

/-- Settles O22. -/
theorem invertAndBitResult : Obligations.InvertAndBitResult := fun _ _ imm5 hw ha =>
  ⟨updateReg_completes (fun x => ~~~x) hw ha (not_eq_ofNat _),
    ordinary_write_completes hw ha ((shiftLeft_eq_ofNat 1 imm5.toNat).trans (by simp))⟩

theorem toNat_lowTwoBits (y : Word) : (y.extractLsb' 0 2).toNat = y.toNat % 4 := by
  rw [toNat_extractLsb'_div]; simp

theorem toNat_bitOne (y : Word) : (y.extractLsb' 1 1).toNat = y.toNat / 2 % 2 := by
  rw [toNat_extractLsb'_div]; simp

/-- Settles O23. -/
theorem extractResult : Obligations.ExtractResult := by
  intro s a b imm2 imm1 hw ha hb
  rw [← toNat_lowTwoBits, ← toNat_bitOne]
  exact ⟨combineRegs_completes (fun x y => (byteLane x (y.extractLsb' 0 2)).setWidth 32) hw ha hb
      (byteLane_eq_ofNat _ _),
    updateReg_completes (fun x => (byteLane x imm2).setWidth 32) hw ha (byteLane_eq_ofNat _ _),
    combineRegs_completes (fun x y => (halfLane x (y.extractLsb' 1 1)).setWidth 32) hw ha hb (halfLane_eq_ofNat _ _),
    updateReg_completes (fun x => (halfLane x imm1).setWidth 32) hw ha (halfLane_eq_ofNat _ _)⟩

/-- Settles O24. -/
theorem extendAndFillResult : Obligations.ExtendAndFillResult := fun _ _ hw ha h0 =>
  ⟨updateReg_completes (fun x => sext (byteLane x 0)) hw ha (sext_byteLane_eq_ofInt _),
    updateReg_completes (fun x => sext (halfLane x 0)) hw ha (sext_halfLane_eq_ofInt _),
    accumulate_completes (fun _ x => byteLane x 0 ++ byteLane x 0 ++ byteLane x 0 ++ byteLane x 0) hw h0 ha
      (fill8_eq_ofNat _),
    accumulate_completes (fun _ x => halfLane x 0 ++ halfLane x 0) hw h0 ha (fill16_eq_ofNat _)⟩

/-! ### The multiplication step (40_arithmetic.md R141) -/

/-- One step of the multiplication on numbers: with j bits of the multiplier left below the one MSTEP tests. -/
theorem mstep_product {m d j x : Nat} (hj : j < 16) (hd : d < 2 ^ 16) (hm : m < 2 ^ 16)
    (hx : x = m % 2 ^ (j + 1) * 2 ^ (31 - j) + d * (m / 2 ^ (j + 1))) :
    (2 * x + if 2 ^ 31 ≤ x then d else 0) % 2 ^ 32 = m % 2 ^ j * 2 ^ (32 - j) + d * (m / 2 ^ j) := by
  have hp : 2 ^ j * 2 ^ (31 - j) = 2 ^ 31 := by rw [← Nat.pow_add]; congr 1; omega
  have hp2 : 2 ^ (32 - j) = 2 * 2 ^ (31 - j) := by rw [← Nat.pow_succ']; congr 1; omega
  have hq : 2 ^ 16 * 2 ^ (16 - j) = 2 * 2 ^ (31 - j) := by rw [← Nat.pow_succ', ← Nat.pow_add]; congr 1; omega
  have hmod : m % 2 ^ (j + 1) = m % 2 ^ j + 2 ^ j * (m / 2 ^ j % 2) := Nat.mod_pow_succ
  have hdiv : m / 2 ^ (j + 1) = m / 2 ^ j / 2 := by rw [Nat.pow_succ, Nat.div_div_eq_div_mul]
  have hlow : m % 2 ^ j < 2 ^ j := Nat.mod_lt _ (Nat.two_pow_pos j)
  have hhigh : m / 2 ^ j < 2 ^ (16 - j) := by
    rw [Nat.div_lt_iff_lt_mul (Nat.two_pow_pos j), ← Nat.pow_add]
    rwa [Nat.sub_add_cancel hj.le]
  rw [hmod, hdiv] at hx
  rw [hp2]
  generalize hP : 2 ^ (31 - j) = P at *
  generalize hA : m % 2 ^ j = A at *
  generalize hH : m / 2 ^ j = H at *
  generalize hQ : 2 ^ (16 - j) = Q at *
  have h1 : A * P + P ≤ 2 ^ 31 := by
    rw [← Nat.succ_mul, ← hp]; exact Nat.mul_le_mul_right P hlow
  have h2 : d * H < 2 * P := hq ▸ Nat.mul_lt_mul'' hd hhigh
  rcases Nat.mod_two_eq_zero_or_one H with hbit | hbit
  · obtain ⟨B, rfl⟩ : ∃ B, H = 2 * B := ⟨H / 2, by omega⟩
    have hx' : x = A * P + d * B := by simp [hx]
    have hgoal : A * (2 * P) + d * (2 * B) = 2 * (A * P + d * B) := by ring
    rw [Nat.mul_left_comm] at h2
    rw [hgoal, hx', if_neg (by omega)]
    omega
  · obtain ⟨B, rfl⟩ : ∃ B, H = 2 * B + 1 := ⟨H / 2, by omega⟩
    have hx' : x = A * P + 2 ^ 31 + d * B := by
      rw [hx, hbit, Nat.mul_one, Nat.add_mul, hp]; congr 2; omega
    have hgoal : A * (2 * P) + d * (2 * B + 1) = 2 * (A * P + d * B) + d := by ring
    rw [Nat.mul_add, Nat.mul_left_comm] at h2
    rw [hgoal, hx', if_pos (by omega)]
    omega

theorem afterWrite_x_ne {s : State} {a b : Reg} (v : Word) (h : b ≠ a) : (afterWrite s a v).x b = s.x b := by
  have hne : phys s.cwp a ≠ phys s.cwp b := fun he => h (phys_inj.1 he).symm
  change (s.regs.set (phys s.cwp a) v).getD (phys s.cwp b) 0 = _
  rw [List.getD_eq_getElem?_getD, List.getElem?_set_ne hne]; rfl

/-- Settles O14, with j = 15 - k bits of the multiplier below the one tested. -/
theorem mstepAdvancesProduct : Obligations.MstepAdvancesProduct := by
  intro s t a m k ha hm hd hk hx h
  obtain ⟨hmstep, rfl⟩ := exec_effect h
  have hacc : accumulate s a (fun t m => if t.msb then (t <<< 1) + m else t <<< 1) = .next _ :=
    (if_pos hmstep).symm.trans h
  obtain ⟨-, h0, -, -⟩ := accumulate_eq_next.1 hacc
  have hzero (v : Word) : (afterWrite s 0 v).x 0 = v := (afterWrite_resultIs v h0).reg.x rfl
  rw [hzero, afterWrite_x_ne _ ha, mstep_eq_ofNat, BitVec.toNat_ofNat]
  refine ⟨rfl, ?_⟩
  obtain ⟨j, hj⟩ : ∃ j, k + j = 15 := ⟨15 - k, by omega⟩
  rw [show 16 - k = j + 1 by omega, show 16 + k = 31 - j by omega] at hx
  rw [show 16 - (k + 1) = j by omega, show 16 + (k + 1) = 32 - j by omega]
  exact mstep_product (by omega) hd hm hx

/-! ### Conditions (46_control_flow.md R268) -/

theorem conditionTable (f : Flags) :
    condition 0 f = .ok (decide (f.c = true)) ∧ condition 1 f = .ok (decide (f.c = false)) ∧
    condition 2 f = .ok (decide (f.z = true)) ∧ condition 3 f = .ok (decide (f.z = false)) ∧
    condition 4 f = .ok (decide (f.n = true)) ∧ condition 5 f = .ok (decide (f.n = false)) ∧
    condition 6 f = .ok (decide (f.n = f.v)) ∧ condition 7 f = .ok (decide (f.n ≠ f.v)) ∧
    condition 8 f = .ok (decide (f.z = true ∨ f.n ≠ f.v)) ∧ condition 9 f = .ok (decide (f.z = false ∧ f.n = f.v)) ∧
    condition 10 f = .ok (decide (f.v = true)) ∧ condition 11 f = .ok (decide (f.v = false)) ∧
    condition 12 f = .ok (decide (f.c = true ∨ f.z = true)) ∧
    condition 13 f = .ok (decide (f.c = false ∧ f.z = false)) := by
  obtain ⟨n, v, z, c⟩ := f
  revert n v z c
  decide

/-- The difference wraps at most once. -/
theorem toInt_sub_wraps (x y : Word) :
    (x - y).toInt = x.toInt - y.toInt ∨ (x - y).toInt = x.toInt - y.toInt - 2 ^ 32 ∨
      (x - y).toInt = x.toInt - y.toInt + 2 ^ 32 := by
  have hx := BitVec.toInt_lt (x := x)
  have hx' := BitVec.le_toInt x
  have hy := BitVec.toInt_lt (x := y)
  have hy' := BitVec.le_toInt y
  rw [BitVec.toInt_sub, Int.bmod_def]
  split <;> omega

theorem subFlags_c_iff (x y : Word) : (subFlags x y).c = true ↔ x.toNat < y.toNat := decide_eq_true_iff

theorem subFlags_z_iff (x y : Word) : (subFlags x y).z = true ↔ x = y := by
  rw [subFlags, beq_iff_eq, sub_eq_zero]

theorem subFlags_n_iff (x y : Word) : (subFlags x y).n = true ↔ (x - y).toInt < 0 := by
  rw [subFlags, BitVec.msb_eq_toInt, decide_eq_true_iff]

theorem subFlags_v_iff (x y : Word) : (subFlags x y).v = true ↔ (x - y).toInt ≠ x.toInt - y.toInt := by
  rw [subOverflow_eq, decide_eq_true_iff]
  have hlt := BitVec.toInt_lt (x := x - y)
  have hge := BitVec.le_toInt (x - y)
  have hwraps := toInt_sub_wraps x y
  omega

/-- N and V differ exactly when the first operand is the smaller signed number. -/
theorem subFlags_ne_iff (x y : Word) : (subFlags x y).n ≠ (subFlags x y).v ↔ x.toInt < y.toInt := by
  have hn := subFlags_n_iff x y
  have hv := subFlags_v_iff x y
  have hlt := BitVec.toInt_lt (x := x - y)
  have hge := BitVec.le_toInt (x - y)
  have hx := BitVec.toInt_lt (x := x)
  have hx' := BitVec.le_toInt x
  have hy := BitVec.toInt_lt (x := y)
  have hy' := BitVec.le_toInt y
  have hwraps := toInt_sub_wraps x y
  generalize (subFlags x y).n = n at hn ⊢
  generalize (subFlags x y).v = v at hv ⊢
  cases n <;> cases v <;> simp only [Bool.false_eq_true, false_iff, true_iff, not_not, ne_eq, not_true, not_false_iff,
    reduceCtorEq] at hn hv ⊢ <;> omega

theorem cmp_flags {s t : State} {a b : Reg} (h : exec (.cmp a b) s = .next t) :
    t.flags = subFlags (s.x a) (s.x b) := by
  have he : t = _ := exec_effect h
  subst he
  exact (setFlags_writesFlags s _).1

theorem ok_decide_congr {p q : Prop} [Decidable p] [Decidable q] {r : Except Refusal Bool} (h : r = .ok (decide p))
    (hpq : p ↔ q) : r = .ok (decide q) :=
  h.trans (congrArg _ (decide_eq_decide.2 hpq))

/-- Settles O36: the comparisons follow from what each flag of a subtraction says. -/
theorem conditionMeaning : Obligations.ConditionMeaning := by
  refine ⟨conditionTable, fun s t a b h => ?_⟩
  rw [cmp_flags h]
  generalize s.x a = x, s.x b = y
  have hc := subFlags_c_iff x y
  have hz := subFlags_z_iff x y
  have hn := subFlags_n_iff x y
  have hv := subFlags_v_iff x y
  have hlt := subFlags_ne_iff x y
  have hle : (subFlags x y).n = (subFlags x y).v ↔ y.toInt ≤ x.toInt := by rw [← not_lt, ← hlt, not_not]
  have hinj : x = y ↔ x.toInt = y.toInt := BitVec.toInt_inj.symm
  have hinj' : x = y ↔ x.toNat = y.toNat := BitVec.toNat_inj.symm
  have hc' : (subFlags x y).c = false ↔ y.toNat ≤ x.toNat := by rw [← Bool.not_eq_true, hc, not_lt]
  have hz' : (subFlags x y).z = false ↔ x ≠ y := by rw [← Bool.not_eq_true, hz]
  have hn' : (subFlags x y).n = false ↔ 0 ≤ (x - y).toInt := by rw [← Bool.not_eq_true, hn, not_lt]
  have hv' : (subFlags x y).v = false ↔ (x - y).toInt = x.toInt - y.toInt := by
    rw [← Bool.not_eq_true, hv, ne_eq, not_not]
  obtain ⟨h0, h1, h2, h3, h4, h5, h6, h7, h8, h9, h10, h11, h12, h13⟩ := conditionTable (subFlags x y)
  exact ⟨ok_decide_congr h0 hc, ok_decide_congr h1 hc', ok_decide_congr h2 hz, ok_decide_congr h3 hz',
    ok_decide_congr h4 hn, ok_decide_congr h5 hn', ok_decide_congr h6 hle, ok_decide_congr h7 hlt,
    ok_decide_congr h8 ((or_congr hz hlt).trans (by rw [hinj]; omega)),
    ok_decide_congr h9 ((and_congr hz' hle).trans (by rw [ne_eq, hinj]; omega)), ok_decide_congr h10 hv, ok_decide_congr h11 hv',
    ok_decide_congr h12 ((or_congr hc hz).trans (by rw [hinj']; omega)),
    ok_decide_congr h13 ((and_congr hc' hz').trans (by rw [ne_eq, hinj']; omega))⟩

end Sys2Proof.Machine
end

/-! ## Loads and stores (45_load_store.md, 20_memory.md) -/

section
namespace Sys2Proof.Machine

/-! ### Effective addresses as numbers -/

theorem toNat_wordAddress (ea : Word) : (wordAddress ea).toNat = ea.toNat / 4 * 4 := by
  have hea := ea.isLt
  rw [wordAddress, align32, BitVec.toNat_setWidth, toNat_append_add, toNat_extractLsb'_div, BitVec.toNat_ofNat]
  omega

theorem toNat_byteLaneAddress (ea : Word) (n : BitVec 2) :
    (byteLaneAddress ea n).toNat = ea.toNat / 4 * 4 + n.toNat := by
  have hea := ea.isLt
  rw [byteLaneAddress, BitVec.toNat_add, toNat_wordAddress, BitVec.toNat_setWidth]
  omega

theorem toNat_halfLaneAddress (ea : Word) (n : BitVec 1) :
    (halfLaneAddress ea n).toNat = ea.toNat / 4 * 4 + 2 * n.toNat := by
  have hea := ea.isLt
  rw [halfLaneAddress, BitVec.toNat_add, BitVec.toNat_mul, toNat_wordAddress, BitVec.toNat_setWidth]
  change (ea.toNat / 4 * 4 + 2 * (n.toNat % 2 ^ 33) % 2 ^ 33) % 2 ^ 33 = _
  omega

/-- A base plus four times a sign-extended number of words, modulo 2^32. -/
theorem toNat_add_sext_mul_four {n : Nat} (base : Word) (v : BitVec n) :
    ((base + sext v * 4).toNat : Int) = (base.toNat + 4 * v.toInt) % 2 ^ 32 := by
  have hea : base + sext v * 4 = BitVec.ofInt 32 (base.toNat + 4 * v.toInt) := by
    rw [BitVec.ofInt_add, BitVec.ofInt_mul, BitVec.ofInt_natCast, BitVec.ofNat_toNat, BitVec.setWidth_eq, BitVec.mul_comm]
    rfl
  rw [hea, BitVec.toNat_ofInt, Int.toNat_of_nonneg (Int.emod_nonneg _ (by decide))]
  rfl

/-- Settles O25. -/
theorem effectiveAddress : Obligations.EffectiveAddress := by
  intro s base ea imm5 n2 n1
  refine ⟨?_, ?_, toNat_wordAddress ea, toNat_byteLaneAddress ea n2, toNat_halfLaneAddress ea n1⟩
  · rw [toNat_wordAddress, koff, ← toNat_add_sext_mul_four]
    rfl
  · have himm : ((32 * s.k.toNat + imm5.toNat : Nat) : Int).bmod (2 ^ 16) = (imm16 s imm5).toInt := by
      rw [BitVec.toInt_eq_toNat_bmod, imm16, toNat_append_add, Nat.mul_comm]; rfl
    rw [toNat_wordAddress, poff, himm, ← toNat_add_sext_mul_four]
    rfl

/-! ### What is written is read back -/

theorem Memory.Rising.half_putHalf {m : Memory} (h : m.Rising) (a : Nat) (v : Half) : (m.putHalf a v).half a = v := by
  apply BitVec.eq_of_toNat_eq
  have h0 := h.get_putHalf_same a v (k := 0) (by decide)
  have h1 := h.get_putHalf_same a v (k := 1) (by decide)
  have hv := v.isLt
  rw [Nat.add_zero] at h0
  rw [Memory.toNat_half, h0, h1]
  simp only [toNat_extractLsb'_div]
  omega

theorem Memory.Rising.word_putWord {m : Memory} (h : m.Rising) (a : Nat) (v : Word) : (m.putWord a v).word a = v := by
  apply BitVec.eq_of_toNat_eq
  have h0 := h.get_putWord_same a v (k := 0) (by decide)
  have h1 := h.get_putWord_same a v (k := 1) (by decide)
  have h2 := h.get_putWord_same a v (k := 2) (by decide)
  have h3 := h.get_putWord_same a v (k := 3) (by decide)
  have hv := v.isLt
  rw [Nat.add_zero] at h0
  rw [Memory.toNat_word, h0, h1, h2, h3]
  simp only [toNat_extractLsb'_div]
  omega

/-! ### Stores to RAM -/

theorem storesAt_of_writesBytes {s : State} {write : Memory → Memory} {a n : Nat} (h : WritesBytes write a n) :
    StoresAt s ({ s with mem := write s.mem } : State).retire a n where
  regs := rfl
  status := rfl
  ends := ⟨rfl, rfl, rfl, rfl, rfl⟩
  system := ⟨rfl, rfl, rfl, rfl⟩
  free := rfl
  memory := h.other s.mem

theorem storeTo_completes {s : State} {a base : Reg} {offset : Word} (hw : s.wstat = false) (hm : s.mem.wf)
    (ha : s.visible a) (hb : s.visible base) (hk : kindAt s.cfg (wordAddress (s.x base + offset)) 4 = some .ram) :
    Completes (storeTo s a base offset) fun t =>
      StoresAt s t (wordAddress (s.x base + offset)).toNat 4 ∧
      t.mem.word (wordAddress (s.x base + offset)).toNat = s.x a :=
  have hrise : s.mem.Rising := hm.1
  ⟨_, storeTo_eq_next.2 ⟨hw, hb, ha, _, storeMemory_eq_ok.2 (.inl ⟨hk, rfl⟩), rfl⟩,
    storesAt_of_writesBytes (putWord_writesBytes _ _), hrise.word_putWord _ _⟩

theorem storeByteLane_completes {s : State} {base : Reg} {offset : Word} {l : Nat} (lane : Word → BitVec 2)
    (hw : s.wstat = false) (hm : s.mem.wf) (hb : s.visible base) (h0 : s.visible 0) (hl : (lane (s.x base)).toNat = l)
    (hk : kindAt s.cfg (byteLaneAddress (s.x base + offset) (lane (s.x base))) 1 = some .ram) :
    Completes (storeByteLane s base offset lane) fun t =>
      StoresAt s t (byteLaneAddress (s.x base + offset) (lane (s.x base))).toNat 1 ∧
      (t.byte (byteLaneAddress (s.x base + offset) (lane (s.x base))).toNat).toNat =
        (s.x 0).toNat / 256 ^ l % 256 :=
  have hrise : s.mem.Rising := hm.1
  ⟨_, storeByteLane_eq_next.2 ⟨hw, hb, h0, _, storeMemory_eq_ok.2 (.inl ⟨hk, rfl⟩), rfl⟩,
    storesAt_of_writesBytes (put_writesBytes _ _),
    (congrArg BitVec.toNat (hrise.get_put_same _ _)).trans (hl ▸ toNat_byteLane _ _)⟩

theorem storeHalfLane_completes {s : State} {base : Reg} {offset : Word} {l : Nat} (lane : Word → BitVec 1)
    (hw : s.wstat = false) (hm : s.mem.wf) (hb : s.visible base) (h0 : s.visible 0) (hl : (lane (s.x base)).toNat = l)
    (hk : kindAt s.cfg (halfLaneAddress (s.x base + offset) (lane (s.x base))) 2 = some .ram) :
    Completes (storeHalfLane s base offset lane) fun t =>
      StoresAt s t (halfLaneAddress (s.x base + offset) (lane (s.x base))).toNat 2 ∧
      (t.mem.half (halfLaneAddress (s.x base + offset) (lane (s.x base))).toNat).toNat =
        (s.x 0).toNat / 65536 ^ l % 65536 :=
  have hrise : s.mem.Rising := hm.1
  ⟨_, storeHalfLane_eq_next.2 ⟨hw, hb, h0, _, storeMemory_eq_ok.2 (.inl ⟨hk, rfl⟩), rfl⟩,
    storesAt_of_writesBytes (putHalf_writesBytes _ _),
    (congrArg BitVec.toNat (hrise.half_putHalf _ _)).trans (hl ▸ toNat_halfLane _ _)⟩

/-- Settles O27. -/
theorem storeWordResult : Obligations.StoreWordResult := fun _ _ _ _ _ _ hw hm ha =>
  ⟨fun hb hk => storeTo_completes hw hm ha hb hk, fun hp hk => storeTo_completes hw hm ha hp hk,
    fun hsp hk => storeTo_completes hw hm ha hsp hk⟩

/-- Settles O28: the lane is a field of the base register or of the immediate. -/
theorem partialStoreResult : Obligations.PartialStoreResult := by
  intro s a imm2 imm1 imm10 imm9 hw hm ha h0
  refine ⟨?st8d, ?st8s, ?sts8s, ?st16d, ?st16s, ?sts16s⟩
  case st8d =>
    exact fun hk => storeByteLane_completes (fun p => p.extractLsb' 0 2) hw hm ha h0 (toNat_lowTwoBits _) hk
  case st8s => exact fun hk => storeByteLane_completes (fun _ => imm2) hw hm ha h0 rfl hk
  case sts8s =>
    have hl : (imm10.extractLsb' 0 2).toNat = imm10.toNat % 4 := by rw [toNat_extractLsb'_div]; simp
    exact fun hsp hk => storeByteLane_completes (fun _ => imm10.extractLsb' 0 2) hw hm hsp h0 hl hk
  case st16d =>
    exact fun hk => storeHalfLane_completes (fun p => p.extractLsb' 1 1) hw hm ha h0 (toNat_bitOne _) hk
  case st16s => exact fun hk => storeHalfLane_completes (fun _ => imm1) hw hm ha h0 rfl hk
  case sts16s =>
    have hl : (imm9.extractLsb' 0 1).toNat = imm9.toNat % 2 := by rw [toNat_extractLsb'_div]; simp
    exact fun hsp hk => storeHalfLane_completes (fun _ => imm9.extractLsb' 0 1) hw hm hsp h0 hl hk

/-! ### Loads and stores by their address -/

/-- Every load is `loadFrom` at its address. -/
theorem exec_load {i : Instr} {s : State} {addr : Addr} {a : Reg} (h : loadTarget s i = some (addr, a))
    (hr : ∀ r ∈ operandRegs s.pfxd i, s.visible r) :
    ∃ base offset, exec i s = loadFrom s a base offset ∧ wordAddress (s.x base + offset) = addr ∧
      s.visible base ∧ s.visible a := by
  cases i with
  | ld a' b => cases h; exact ⟨b, koff s, rfl, rfl, hr b (by simp [operandRegs]), hr _ (by simp [operandRegs])⟩
  | ldp p n a' => cases h; exact ⟨p, poff s n, rfl, rfl, hr p (by simp [operandRegs]), hr _ (by simp [operandRegs])⟩
  | lds n a' =>
    cases h
    exact ⟨sp, n.setWidth 32 * 4, rfl, rfl, hr sp (by simp [operandRegs]), hr _ (by simp [operandRegs])⟩
  | _ => cases h

theorem exec_load_ok {i : Instr} {s : State} {addr : Addr} {a : Reg} (hw : s.wstat = false)
    (h : loadTarget s i = some (addr, a)) (hr : ∀ r ∈ operandRegs s.pfxd i, s.visible r) (hp : s.present addr 4) :
    s.visible a ∧ exec i s = .next (afterWrite (s.afterRead addr 4) a (s.wordAt addr)) := by
  obtain ⟨base, offset, hexec, rfl, hb, ha⟩ := exec_load h hr
  exact ⟨ha, hexec ▸ loadFrom_eq_next.2 ⟨hw, hb, ha, hp, rfl⟩⟩

theorem ordinary_eq_answer {s : State} {body : Except Refusal State} (hw : s.wstat = false) :
    ordinary s body = answer (body.map State.retire) := by
  rw [ordinary, requireNoWstat_eq_ok (u := ()).2 hw, except_ok_bind]
  cases body <;> rfl

theorem storeTo_eq {s : State} {a base : Reg} {offset : Word} (hw : s.wstat = false) (hb : s.visible base)
    (ha : s.visible a) : storeTo s a base offset =
      answer ((storeWord s (wordAddress (s.x base + offset)) (s.x a)).map State.retire) := by
  rw [storeTo, readReg_visible hb, except_ok_bind, readReg_visible ha, except_ok_bind, ordinary_eq_answer hw]

theorem storeByteLane_eq {s : State} {base : Reg} {offset : Word} (lane : Word → BitVec 2) (hw : s.wstat = false)
    (hb : s.visible base) (h0 : s.visible r0) : storeByteLane s base offset lane =
      answer ((storeByte s (byteLaneAddress (s.x base + offset) (lane (s.x base)))
        (byteLane (s.x r0) (lane (s.x base)))).map State.retire) := by
  rw [storeByteLane, readReg_visible hb, except_ok_bind, readReg_visible h0, except_ok_bind, ordinary_eq_answer hw]

theorem storeHalfLane_eq {s : State} {base : Reg} {offset : Word} (lane : Word → BitVec 1) (hw : s.wstat = false)
    (hb : s.visible base) (h0 : s.visible r0) : storeHalfLane s base offset lane =
      answer ((storeHalf s (halfLaneAddress (s.x base + offset) (lane (s.x base)))
        (halfLane (s.x r0) (lane (s.x base)))).map State.retire) := by
  rw [storeHalfLane, readReg_visible hb, except_ok_bind, readReg_visible h0, except_ok_bind, ordinary_eq_answer hw]

/-- Every store ends as `storeMemory` at its address does. -/
theorem exec_store {i : Instr} {s : State} {addr : Addr} {n : Nat} (hw : s.wstat = false)
    (h : storeTarget s i = some (addr, n)) (hr : ∀ r ∈ operandRegs s.pfxd i, s.visible r) :
    ∃ write, exec i s = answer ((storeMemory s addr n write).map State.retire) := by
  cases i with
  | st a b => cases h; exact ⟨_, storeTo_eq hw (hr b (by simp [operandRegs])) (hr a (by simp [operandRegs]))⟩
  | stp p imm5 a => cases h; exact ⟨_, storeTo_eq hw (hr p (by simp [operandRegs])) (hr a (by simp [operandRegs]))⟩
  | sts imm8 a => cases h; exact ⟨_, storeTo_eq hw (hr sp (by simp [operandRegs])) (hr a (by simp [operandRegs]))⟩
  | st8d a =>
    cases h
    exact ⟨_, storeByteLane_eq (fun p => p.extractLsb' 0 2) hw (hr a (by simp [operandRegs]))
      (hr r0 (by simp [operandRegs]))⟩
  | st8s a imm2 =>
    cases h
    exact ⟨_, storeByteLane_eq (fun _ => imm2) hw (hr a (by simp [operandRegs])) (hr r0 (by simp [operandRegs]))⟩
  | sts8s imm10 =>
    cases h
    exact ⟨_, storeByteLane_eq (fun _ => imm10.extractLsb' 0 2) hw (hr sp (by simp [operandRegs]))
      (hr r0 (by simp [operandRegs]))⟩
  | st16d a =>
    cases h
    exact ⟨_, storeHalfLane_eq (fun p => p.extractLsb' 1 1) hw (hr a (by simp [operandRegs]))
      (hr r0 (by simp [operandRegs]))⟩
  | st16s a imm1 =>
    cases h
    exact ⟨_, storeHalfLane_eq (fun _ => imm1) hw (hr a (by simp [operandRegs])) (hr r0 (by simp [operandRegs]))⟩
  | sts16s imm9 =>
    cases h
    exact ⟨_, storeHalfLane_eq (fun _ => imm9.extractLsb' 0 1) hw (hr sp (by simp [operandRegs]))
      (hr r0 (by simp [operandRegs]))⟩
  | _ => cases h

/-- Settles O26: a read of plain memory uses up no free value. -/
theorem loadResult : Obligations.LoadResult := by
  intro i s addr a hw ht hr hmem
  obtain ⟨ha, hexec⟩ := exec_load_ok hw ht hr hmem.present
  rw [hmem.afterRead, hmem.wordAt] at hexec
  exact ⟨_, hexec, afterWrite_resultIs _ ha⟩

/-- Settles O29. -/
theorem peripheralAccess : Obligations.PeripheralAccess := by
  intro i s addr width hw hr
  refine ⟨fun a ht hk => ?load, fun n ht hk => ?store⟩
  case load =>
    obtain ⟨ha, hexec⟩ := exec_load_ok hw ht hr (by simp [State.present, hk])
    have hreg : WritesReg s (afterWrite (s.afterRead addr 4) a (s.wordAt addr)) a (s.wordAt addr) :=
      writesReg_set _ ha rfl
    refine ⟨_, hexec, ?_, (hreg.x rfl).symm ▸ hreg, rfl, ⟨rfl, rfl, rfl, rfl, rfl⟩, ⟨rfl, rfl, rfl, rfl⟩, fun _ => rfl,
      freeAfter_peripheral hk⟩
    rw [hreg.x rfl, wordAt_peripheral hk]
    exact peripheralWord_lt s width
  case store =>
    obtain ⟨write, hexec⟩ := exec_store hw ht hr
    rw [storeMemory_eq_ok.2 (.inr ⟨⟨width, hk⟩, rfl⟩)] at hexec
    exact ⟨s.retire, hexec, rfl, rfl, ⟨rfl, rfl, rfl, rfl, rfl⟩, ⟨rfl, rfl, rfl, rfl⟩, rfl, fun _ _ => rfl⟩

/-- Settles O30. -/
theorem accessStops : Obligations.AccessStops := by
  intro i s addr hw hr
  refine ⟨fun a ht hk => ?load, fun n ht hk => ?absent, fun n ht hk => ?rom⟩
  case load =>
    obtain ⟨base, offset, hexec, rfl, hb, -⟩ := exec_load ht hr
    exact hexec.trans (loadFrom_absent hw hb hk)
  case absent =>
    obtain ⟨write, hexec⟩ := exec_store hw ht hr
    rw [hexec, storeMemory_absent hk]; rfl
  case rom =>
    obtain ⟨write, hexec⟩ := exec_store hw ht hr
    rw [hexec, storeMemory_rom hk]; rfl

end Sys2Proof.Machine
end

/-! ## Program flow and the step (46_control_flow.md, 10_state.md R46) -/

section
namespace Sys2Proof.Machine

/-! ### Code addresses as numbers (10_state.md R30, R31) -/

theorem byteAddress_eq_ofNat (v : Word) : byteAddress v = BitVec.ofNat 33 (2 * v.toNat) := by
  apply BitVec.eq_of_toNat_eq
  rw [byteAddress, toNat_append_add, BitVec.toNat_ofNat]
  simp; omega

theorem codeAddress_add_four (a : Addr) : codeAddress (a + 4) = BitVec.ofNat 32 ((a.toNat + 4) % 2 ^ 33 / 2) := by
  apply BitVec.eq_of_toNat_eq
  rw [codeAddress, toNat_extractLsb'_div, BitVec.toNat_add, BitVec.toNat_ofNat]
  rfl

theorem branchTarget_eq_ofInt (s : State) (n : BitVec 11) :
    branchTarget s n = BitVec.ofInt 33 (s.pc.toNat + 2 * (n.toInt + 1)) := by
  rw [BitVec.ofInt_add, BitVec.ofInt_mul, BitVec.ofInt_add, BitVec.ofInt_natCast, BitVec.ofNat_toNat, BitVec.setWidth_eq]
  rfl

theorem nextPc_of_none {s : State} (h : s.ds = none) : s.nextPc = s.pc + 2 := by rw [State.nextPc, h]; rfl

/-! ### Delayed transfers -/

theorem retireDelayed_delayed {s : State} (hd : s.ds = none) {target target' : Addr} (ht : target = target') :
    Delayed s (s.retireDelayed target) target' :=
  ⟨nextPc_of_none hd, congrArg some ht, rfl, rfl, rfl⟩

theorem linked_delayed {s : State} (hd : s.ds = none) {target target' : Addr} (ht : target = target') :
    Delayed s ((linked s).retireDelayed target) target' :=
  ⟨nextPc_of_none (s := linked s) hd, congrArg some ht, rfl, rfl, rfl⟩

theorem retireDelayed_keepsData (s : State) (target : Addr) : KeepsData s (s.retireDelayed target) :=
  ⟨rfl, rfl, ⟨rfl, rfl, rfl, rfl⟩, rfl, fun _ => rfl⟩

/-- Settles O31. -/
theorem branchDelayed : Obligations.BranchDelayed := by
  intro s a imm11 hw hd
  refine ⟨⟨_, outsideSlot_ok hw hd rfl, ?br⟩, fun ha => ⟨s.retireDelayed (byteAddress (s.x a)), ?jmp, ?jmpTo⟩⟩
  case br => exact ⟨retireDelayed_keepsData .., retireDelayed_delayed hd (branchTarget_eq_ofInt s imm11)⟩
  case jmp => exact outsideSlot_ok hw hd (by rw [readReg_visible ha]; rfl)
  case jmpTo => exact ⟨retireDelayed_keepsData .., retireDelayed_delayed hd (byteAddress_eq_ofNat _)⟩

/-- %o7 holds the halved address after the slot; nothing else is written. -/
theorem linked_writesReg {s : State} (h15 : s.visible 15) (target : Addr) :
    WritesReg s ((linked s).retireDelayed target) 15 (BitVec.ofNat 32 ((s.pc.toNat + 4) % 2 ^ 33 / 2)) :=
  codeAddress_add_four s.pc ▸ writesReg_set _ h15 rfl

/-- Settles O32: the target of CALL is read from the state before the link. -/
theorem callLinks : Obligations.CallLinks := by
  intro s a imm11 hw hd h15
  have hlink : link s = .ok (linked s) := link_eq_ok.2 ⟨h15, rfl⟩
  refine ⟨⟨(linked s).retireDelayed (branchTarget s imm11), outsideSlot_ok hw hd ?bsr, ?bsrTo⟩,
    fun ha => ⟨(linked s).retireDelayed (byteAddress (s.x a)), outsideSlot_ok hw hd ?call, ?callTo⟩⟩
  case bsr => rw [hlink]; rfl
  case call => rw [readReg_visible ha, except_ok_bind, hlink]; rfl
  case bsrTo =>
    exact ⟨⟨linked_writesReg h15 _, rfl, ⟨rfl, rfl, rfl, rfl⟩, rfl, fun _ => rfl⟩,
      linked_delayed hd (branchTarget_eq_ofInt s imm11)⟩
  case callTo =>
    exact ⟨⟨linked_writesReg h15 _, rfl, ⟨rfl, rfl, rfl, rfl⟩, rfl, fun _ => rfl⟩,
      linked_delayed hd (byteAddress_eq_ofNat _)⟩

/-! ### The twelve in a delay slot -/

theorem exec_forbidden {i : Instr} (h : forbiddenInSlot i = true) (s : State) :
    ∃ body, exec i s = outsideSlot s body := by
  cases i with
  | br | bsr | jmp | call | pfx | skp0 | skp1 | skprz | skprnz | skps | tret | trap => exact ⟨_, rfl⟩
  | _ => cases h

theorem outsideSlot_inSlot {s : State} {body : Except Refusal State} (hw : s.wstat = false)
    (hd : s.ds.isSome = true) : outsideSlot s body = .refused .forbiddenInSlot := by
  rw [outsideSlot, requireNoWstat_eq_ok (u := ()).2 hw, except_ok_bind, requireNoSlot, if_pos hd]; rfl

/-- Settles O34. -/
theorem forbiddenInSlotStop : Obligations.ForbiddenInSlotStop := by
  intro i s hf hw hd
  obtain ⟨body, hexec⟩ := exec_forbidden hf s
  rw [hexec, outsideSlot_inSlot hw hd]

/-! ### Skips -/

/-- A PFX is recognised by its opcode bits (46_control_flow.md R262). -/
theorem isPfx_iff (w : Half) : isPfx w = true ↔ w &&& 0xF800 = 0x9800 := by
  refine Iff.trans ?_ (decodeFollowsOpcodeMap w (.pfx 0)).symm
  unfold isPfx
  constructor
  · intro h
    split at h
    case h_1 n hn => exact ⟨_, hn, rfl⟩
    case h_2 => cases h
  · rintro ⟨j, hj, hrow⟩
    cases j with
    | pfx n => rw [hj]
    | _ => simp [Instr.row] at hrow

theorem skipDistance_eq (w : Half) : skipDistance w = if isPfx w then 6 else 4 := by
  simp only [skipDistance, ← isPfx_iff]

/-- Every skip is `skipIf` of its test. -/
theorem exec_skip {i : Instr} {s : State} {c : Bool} (h : skipTest s i = some c)
    (hr : ∀ r ∈ operandRegs s.pfxd i, s.visible r) : ∃ test, exec i s = skipIf s test ∧ test = .ok c := by
  cases i with
  | skp0 a n | skp1 a n | skprz a | skprnz a =>
    cases h
    have ha : s.visible a := hr a (by simp [operandRegs])
    exact ⟨_, rfl, by rw [readReg_visible ha]; rfl⟩
  | skps n =>
    refine ⟨_, rfl, ?_⟩
    simp only [skipTest] at h
    cases hc : condition n s.flags with
    | error r => rw [hc] at h; cases h
    | ok b => rw [hc] at h; cases h; rfl
  | _ => cases h

/-- Settles O35. -/
theorem skipResult : Obligations.SkipResult := by
  intro i s c hw hd hr ht ahead distance
  obtain ⟨test, hexec, htest⟩ := exec_skip ht hr
  have hgo (hp : s.present ahead 2) : Completes (exec i s) fun t =>
      KeepsData (s.afterRead ahead 2) t ∧ EndsAt s t (s.pc + distance (s.halfAt ahead)) := by
    refine ⟨_, hexec ▸ skipIf_eq_next.2 ⟨hw, hd, c, htest, hp, rfl⟩, ?_⟩
    rw [skipDistance_eq]
    exact ⟨⟨rfl, rfl, ⟨rfl, rfl, rfl, rfl⟩, rfl, fun _ => rfl⟩, ⟨rfl, rfl, rfl, rfl, rfl⟩⟩
  refine ⟨fun hm => ?plain, hgo, fun hk => hexec.trans (skipIf_absent hw hd htest hk)⟩
  have hplain := hgo hm.present
  rwa [hm.afterRead, hm.halfAt] at hplain

/-! ### The step -/

theorem step_of_decoded {s : State} {i : Instr} (hu : s.uninterrupted) (hp : s.present s.pc 2)
    (h : decodeWord (s.halfAt s.pc) = .ok i) : step s = exec i (s.sampled.afterRead s.pc 2) := by
  have hf : fetch s.sampled = .ok (s.halfAt s.pc, s.sampled.afterRead s.pc 2) := readHalf_eq_ok.2 ⟨hp, rfl, rfl⟩
  simp only [step, interruptTaken_eq_none.2 hu, hf, h]

theorem step_of_undecoded {s : State} {e : DecodeError} (hu : s.uninterrupted) (hp : s.present s.pc 2)
    (h : decodeWord (s.halfAt s.pc) = .error e) : step s = .refused .unassignedWord := by
  have hf : fetch s.sampled = .ok (s.halfAt s.pc, s.sampled.afterRead s.pc 2) := readHalf_eq_ok.2 ⟨hp, rfl, rfl⟩
  simp only [step, interruptTaken_eq_none.2 hu, hf, h]

theorem step_of_absent {s : State} (hu : s.uninterrupted) (h : kindAt s.cfg s.pc 2 = none) :
    step s = .refused .absentAddress := by
  have hf : fetch s.sampled = .error .absentAddress := readBytes_absent h
  simp only [step, interruptTaken_eq_none.2 hu, hf]

/-- Settles O54: a fetch from plain memory uses up no free value. -/
theorem stepRunsDecoded : Obligations.StepRunsDecoded := by
  intro s i hu
  refine ⟨fun hm hi => ?_, fun hp hi => step_of_decoded hu hp hi⟩
  have hs : s.sampled.readable s.pc 2 := hm
  rw [step_of_decoded hu hm.present (hm.halfAt ▸ hi), hs.afterRead]

/-- Settles O55. -/
theorem unfetchableStops : Obligations.UnfetchableStops := fun _ hu =>
  ⟨fun _ hm he => step_of_undecoded hu hm.present (hm.halfAt ▸ he), fun _ hp he => step_of_undecoded hu hp he,
    step_of_absent hu⟩

/-! ### PFX -/

/-- Settles O19. -/
theorem prefixResult : Obligations.PrefixResult := by
  intro s imm11 hw hd hp
  have hbody : requireNoPfx s = .ok () := by rw [requireNoPfx, hp]; rfl
  refine ⟨{ s.retire with k := imm11, pfxd := true }, outsideSlot_ok hw hd (by rw [hbody]; rfl), ?_⟩
  exact ⟨⟨rfl, rfl, ⟨rfl, rfl, rfl, rfl⟩, rfl, fun _ => rfl⟩, rfl, rfl, nextPc_of_none hd, rfl, rfl⟩

end Sys2Proof.Machine
end

/-! ## Windows, exceptions and control registers (10_state.md R25, 47_system.md, 60_exceptions.md) -/

section
namespace Sys2Proof.Machine

/-! ### The physical index of a visible register (10_state.md R24) -/

theorem phys_of_lt {c : BitVec 5} {i : Reg} (h : i.toNat < 8) : phys c i = i.toNat := if_pos h

theorem phys_of_ge {c : BitVec 5} {i : Reg} (h : 8 ≤ i.toNat) : phys c i = 16 * c.toNat + i.toNat :=
  if_neg h.not_gt

/-- Settles O5: a global is its own physical index, and the others of a window are 24 in a row, 16 above those of the
window below. -/
theorem windowsOverlap : Obligations.WindowsOverlap := by
  intro c d i j hcd
  have hne : c.toNat ≠ d.toNat := fun h => hcd (BitVec.eq_of_toNat_eq h)
  have hi := i.isLt
  have hj := j.isLt
  rw [← BitVec.toNat_inj]
  rcases Nat.lt_or_ge i.toNat 8 with hi8 | hi8 <;> rcases Nat.lt_or_ge j.toNat 8 with hj8 | hj8
  · rw [phys_of_lt hi8, phys_of_lt hj8]; omega
  · rw [phys_of_lt hi8, phys_of_ge hj8]; omega
  · rw [phys_of_ge hi8, phys_of_lt hj8]; omega
  · rw [phys_of_ge hi8, phys_of_ge hj8]; omega

theorem toNat_sub_one {c : BitVec 5} (h : c ≠ 0) : (c - 1).toNat + 1 = c.toNat := by
  have hpos : c.toNat ≠ 0 := fun h0 => h (BitVec.eq_of_toNat_eq h0)
  rw [BitVec.toNat_sub_of_le (by rw [BitVec.le_def]; exact Nat.one_le_iff_ne_zero.2 hpos)]
  exact Nat.sub_add_cancel (Nat.one_le_iff_ne_zero.2 hpos)

/-- The %fp of the window below is the %sp of this one (10_state.md R25). -/
theorem phys_fp_below {c : BitVec 5} (h : c ≠ 0) : phys (c - 1) 30 = phys c 14 := by
  have hc := toNat_sub_one h
  rw [phys_of_ge (by decide), phys_of_ge (by decide)]
  simp; omega

theorem phys_sp_below {c : BitVec 5} (h : c ≠ 0) : phys (c - 1) 14 < phys c 14 := by
  have hc := toNat_sub_one h
  rw [phys_of_ge (by decide), phys_of_ge (by decide)]
  omega

/-- The %o7 of the window below is no register of this one. -/
theorem phys_o7_below {c : BitVec 5} (h : c ≠ 0) (r : Reg) : phys c r ≠ phys (c - 1) 15 := by
  have hc := toNat_sub_one h
  rw [phys_of_ge (i := 15) (by decide)]
  rcases Nat.lt_or_ge r.toNat 8 with hr | hr
  · rw [phys_of_lt hr]; simp; omega
  · rw [phys_of_ge hr]; simp; omega

/-! ### Moving the window -/

@[simp] theorem State.setCwp_ie (s : State) (c : BitVec 5) : (s.setCwp c).ie = s.ie := statusIE_mkStatus ..
@[simp] theorem State.setCwp_ipri (s : State) (c : BitVec 5) : (s.setCwp c).ipri = s.ipri := statusIPRI_mkStatus ..
@[simp] theorem State.setCwp_cwp (s : State) (c : BitVec 5) : (s.setCwp c).cwp = c := statusCWP_mkStatus ..

theorem setCwp_windowMoved (s : State) (c : BitVec 5) : WindowMoved s (s.setCwp c).retire c :=
  ⟨State.setCwp_cwp s c, State.setCwp_ie s c, State.setCwp_ipri s c, State.setCwp_flags s c, ⟨rfl, rfl, rfl, rfl⟩, rfl,
    fun _ => rfl⟩

theorem setCwp_x (s : State) (c : BitVec 5) (r : Reg) : (s.setCwp c).x r = s.regs.getD (phys c r) 0 := by
  rw [State.x, State.setCwp_cwp]; rfl

theorem setCwp_visible {s : State} {c : BitVec 5} {r : Reg} :
    (s.setCwp c).visible r ↔ phys c r < s.regs.length := by
  rw [State.visible, State.setCwp_cwp]; rfl

/-- With %sp inside the file, so are the new %fp and the new %sp. -/
theorem saved_visible {s : State} (hc : s.cwp ≠ 0) (h14 : s.visible 14) :
    (s.setCwp (s.cwp - 1)).visible 30 ∧ (s.setCwp (s.cwp - 1)).visible 14 := by
  rw [setCwp_visible, setCwp_visible, phys_fp_below hc]
  exact ⟨h14, (phys_sp_below hc).trans h14⟩

theorem saved_cwp (s : State) (n : BitVec 8) : (saved s n).cwp = s.cwp - 1 := State.setCwp_cwp ..
theorem saved_ie (s : State) (n : BitVec 8) : (saved s n).ie = s.ie := State.setCwp_ie ..
theorem saved_ipri (s : State) (n : BitVec 8) : (saved s n).ipri = s.ipri := State.setCwp_ipri ..
theorem restored_cwp (s : State) : (restored s).cwp = s.cwp + 1 := State.setCwp_cwp ..
theorem restored_ie (s : State) : (restored s).ie = s.ie := State.setCwp_ie ..
theorem restored_ipri (s : State) : (restored s).ipri = s.ipri := State.setCwp_ipri ..

/-- SAVE's plain effect is the one the claims state (47_system.md R280). -/
theorem saved_saved {s : State} (n : BitVec 8) (hc : s.cwp ≠ 0) (h14 : s.visible 14) : Saved s (saved s n) n := by
  obtain ⟨-, h14'⟩ := saved_visible hc h14
  have hfp : (s.setCwp (s.cwp - 1)).x 30 = s.x 14 := by rw [setCwp_x, phys_fp_below hc]; rfl
  have hw : WritesReg (s.setCwp (s.cwp - 1)) (saved s n) 14 (s.x 14 - n.setWidth 32 * 4) :=
    hfp ▸ writesReg_set _ h14' rfl
  refine ⟨⟨saved_cwp s n, ?ie, ?ipri, ?flags, ⟨rfl, rfl, rfl, rfl⟩, rfl, fun _ => rfl⟩, ?sp, ?fp, ?regs,
    ⟨rfl, rfl, rfl, rfl, rfl⟩⟩
  case ie => exact saved_ie s n
  case ipri => exact saved_ipri s n
  case flags => exact State.setCwp_flags ..
  case sp => rw [hw.x rfl, BitVec.mul_comm]
  case fp => exact (afterWrite_x_ne _ (by decide)).trans hfp
  case regs =>
    obtain ⟨-, hregs⟩ := hw
    rwa [State.setCwp_cwp] at hregs

theorem restored_restored (s : State) : Restored s (restored s) :=
  ⟨setCwp_windowMoved s _, rfl, ⟨rfl, rfl, rfl, rfl, rfl⟩⟩

/-! ### Window exceptions (60_exceptions.md R316, R317) -/

/-- Whether a window exception is processed depends on IE and IPRI, which SAVE and RESTORE keep. -/
theorem windowException_dropped {s m : State} {e : ExcNum} {dec : Bool} {limit : BitVec 5} (hie : m.ie = s.ie)
    (hipri : m.ipri = s.ipri) (h : ¬(s.cwp = limit ∧ s.ie = true ∧ e < s.ipri)) :
    windowException m (s.cwp = limit) e dec = .ok m := by
  refine windowException_eq_ok.2 (.inr ⟨?_, rfl⟩)
  rwa [hie, hipri, decide_eq_true_iff]

theorem windowException_processed {s m : State} {e : ExcNum} {dec : Bool} {limit : BitVec 5} (hie : m.ie = s.ie)
    (hipri : m.ipri = s.ipri) (hl : s.cwp = limit) (he : s.ie = true) (hp : e < s.ipri) :
    windowException m (s.cwp = limit) e dec = takeException m e m.pc dec :=
  windowException_taken ⟨decide_eq_true hl, hie.trans he, hipri ▸ hp⟩

/-- Settles O38. -/
theorem windowMovesPlain : Obligations.WindowMovesPlain := by
  intro s imm8 hw
  refine ⟨fun hc h14 hno => ⟨saved s imm8, ?save, saved_saved imm8 hc h14⟩,
    fun hc hno => ⟨restored s, ?restore, restored_restored s⟩⟩
  case save =>
    obtain ⟨h30', h14'⟩ := saved_visible hc h14
    exact (execSave_moved hw hc h30' h14').trans
      (congrArg answer (windowException_dropped (saved_ie s imm8) (saved_ipri s imm8) hno))
  case restore =>
    exact (execRestore_moved hw hc).trans
      (congrArg answer (windowException_dropped (restored_ie s) (restored_ipri s) hno))

/-! ### Entering an exception (60_exceptions.md R320) -/

/-- With a window to run in, its %o7 inside the file and a vector table, an exception is entered. -/
theorem takeException_completes {s : State} {n : ExcNum} {ret : Addr} {dec : Bool} (hc : dec = true → s.cwp ≠ 0)
    (hr : phys (if dec then s.cwp - 1 else s.cwp) 15 < s.regs.length) (hp : s.present (vectorAddress s n) 4) :
    ∃ t, takeException s n ret dec = .ok t ∧ Entered s t n ret (if dec then s.cwp - 1 else s.cwp) (handlerOf s n) := by
  have hok := takeException_eq_ok (ret := ret).2 ⟨_, ⟨hc, rfl⟩, hr, hp, rfl⟩
  exact ⟨_, hok, takeException_entered hok⟩

theorem vectorAddress_toNat (s : State) (n : ExcNum) :
    (vectorAddress s n).toNat = (s.cfg.vecBase.toNat + 4 * n.toNat) % 2 ^ 33 := by
  have hn := n.isLt
  rw [vectorAddress, BitVec.toNat_add, BitVec.toNat_mul, BitVec.toNat_setWidth]
  change (_ + 4 * (n.toNat % 2 ^ 33) % 2 ^ 33) % 2 ^ 33 = _
  omega

theorem handlerOf_toNat (s : State) (n : ExcNum) :
    (handlerOf s n).toNat = 2 * (s.wordAt (vectorAddress s n)).toNat := by
  rw [handlerOf, byteAddress, toNat_append_add]; simp; omega

theorem takeException_cwpBelowZero {s : State} {n : ExcNum} {ret : Addr} (hc : s.cwp = 0) :
    takeException s n ret true = .error .cwpBelowZero := by
  have hdown : handlerWindow s true = .error .cwpBelowZero := if_pos hc
  rw [takeException, hdown]; rfl

theorem takeException_outside {s : State} {n : ExcNum} {ret : Addr} {dec : Bool} (hc : dec = true → s.cwp ≠ 0)
    (hr : s.regs.length ≤ phys (if dec then s.cwp - 1 else s.cwp) 15) :
    takeException s n ret dec = .error .outsideRegisterFile := by
  have hwindow := handlerWindow_eq_ok.2 ⟨hc, rfl⟩
  simp only [takeException, hwindow, except_ok_bind, writeReg, State.cwp, statusCWP_mkStatus] at hr ⊢
  rw [if_neg hr.not_gt, except_error_bind]

/-- Settles O37. -/
theorem exceptionEntry : Obligations.ExceptionEntry := by
  intro s n ret dec window vector
  refine ⟨vectorAddress_toNat s n, fun hm => ?plain, fun width hk => ?peripheral, ?below, fun hc =>
    ⟨takeException_outside hc, fun hr => ⟨takeException_completes hc hr, takeException_absent hc hr⟩⟩⟩
  case plain => rw [handlerOf_toNat, hm.wordAt]
  case peripheral =>
    exact ⟨_, peripheralWord_lt s width, by rw [handlerOf_toNat, wordAt_peripheral hk]⟩
  case below =>
    rintro rfl hc
    exact takeException_cwpBelowZero hc

theorem phys_o7_below_lt {c : BitVec 5} (h : c ≠ 0) : phys (c - 1) 15 < phys c 14 := by
  have hc := toNat_sub_one h
  rw [phys_of_ge (by decide), phys_of_ge (by decide)]
  simp; omega

/-- Settles O39: the exception is taken in the window SAVE has opened, whose %o7 lies below the old %sp. -/
theorem saveUnderflow : Obligations.SaveUnderflow := by
  intro s imm8 hw hc h14 hl hie hipri
  obtain ⟨h30', h14'⟩ := saved_visible hc h14
  have hexec : exec (.save imm8) s = answer (takeException (saved s imm8) 1 s.nextPc false) :=
    (execSave_moved hw hc h30' h14').trans
      (congrArg answer (windowException_processed (saved_ie s imm8) (saved_ipri s imm8) hl hie hipri))
  have h15 : phys (saved s imm8).cwp 15 < (saved s imm8).regs.length := by
    rw [saved_cwp, (saved_keepsMachine s imm8).regs]
    exact (phys_o7_below_lt hc).trans h14
  refine ⟨fun hp => ?entered, fun hk => ?absent⟩
  case entered =>
    obtain ⟨t, ht, he⟩ := takeException_completes (ret := s.nextPc) (dec := false) (by simp) h15 hp
    have hhandler : handlerOf (saved s imm8) 1 = handlerOf s 1 := handlerOf_congr rfl rfl rfl 1
    rw [hhandler, if_neg (by simp), saved_cwp] at he
    exact ⟨t, by rw [hexec, ht]; rfl, saved s imm8, saved_saved imm8 hc h14, he⟩
  case absent =>
    rw [hexec, takeException_absent (dec := false) (by simp) h15 hk]; rfl

/-- One window lower than the one RESTORE has moved to is the old one. -/
theorem restored_back (s : State) : (if true then (restored s).cwp - 1 else (restored s).cwp) = s.cwp := by
  rw [if_pos rfl, restored_cwp]; exact add_sub_cancel_right _ _

/-- Settles O40: the handler runs in the window RESTORE has left. -/
theorem restoreOverflow : Obligations.RestoreOverflow := by
  intro s hw hc h15 hl hie hipri
  have hexec : exec .restore s = answer (takeException (restored s) 2 s.nextPc true) :=
    (execRestore_moved hw hc).trans
      (congrArg answer (windowException_processed (restored_ie s) (restored_ipri s) hl hie hipri))
  have hback := restored_back s
  have hne : (restored s).cwp ≠ 0 := by
    have hlt := s.cwp.isLt
    have h31 : s.cwp.toNat ≠ 31 := fun h => hc (BitVec.eq_of_toNat_eq h)
    rw [restored_cwp]
    intro h0
    have hsum : (s.cwp.toNat + 1) % 2 ^ 5 = 0 := (BitVec.toNat_add s.cwp 1).symm.trans (congrArg BitVec.toNat h0)
    omega
  have h15' : phys (if true then (restored s).cwp - 1 else (restored s).cwp) 15 < (restored s).regs.length :=
    hback.symm ▸ h15
  refine ⟨fun hp => ?entered, fun hk => ?absent⟩
  case entered =>
    obtain ⟨t, ht, he⟩ := takeException_completes (ret := s.nextPc) (dec := true) (fun _ => hne) h15' hp
    have hhandler : handlerOf (restored s) 2 = handlerOf s 2 := handlerOf_congr rfl rfl rfl 2
    rw [hhandler, hback] at he
    exact ⟨t, by rw [hexec, ht]; rfl, restored s, restored_restored s, he⟩
  case absent =>
    rw [hexec, takeException_absent (fun _ => hne) h15' hk]; rfl

/-- Settles O41. -/
theorem trapEntry : Obligations.TrapEntry := by
  intro s imm6 hw hd hc hr
  refine ⟨fun hp => ?entered, fun hk => ?absent⟩
  case entered =>
    obtain ⟨t, ht, he⟩ := takeException_completes (ret := s.pc + 2) (dec := true) (fun _ => hc) hr hp
    exact ⟨t, outsideSlot_ok hw hd ht, he⟩
  case absent => exact outsideSlot_stops hw hd (takeException_absent (fun _ => hc) hr hk)

/-- Settles O56: no instruction runs, so the state entered from is the one whose input has been sampled. -/
theorem interruptEntry : Obligations.InterruptEntry := by
  intro s n hirq hie hn hp hd hc hr
  have htaken : interruptTaken s = some n := by
    refine interruptTaken_eq_some.2 ⟨?_, hie, hn, hp, hd⟩
    rw [State.irq, hirq]; rfl
  have hstep : step s = answer (takeException s.sampled n s.pc true) := by simp only [step, htaken]; rfl
  refine ⟨fun hv => ?entered, fun hk => ?absent⟩
  case entered =>
    obtain ⟨t, ht, he⟩ := takeException_completes (s := s.sampled) (ret := s.pc) (dec := true) (fun _ => hc) hr hv
    have hhandler : handlerOf s.sampled n = handlerOf s n := handlerOf_congr rfl rfl rfl n
    rw [hhandler] at he
    exact ⟨t, by rw [hstep, ht]; rfl, he⟩
  case absent =>
    rw [hstep, takeException_absent (s := s.sampled) (dec := true) (fun _ => hc) hr hk]; rfl

/-! ### Returning from an exception (47_system.md R284) -/

theorem exec_tret_ok {s : State} {a : Reg} (hw : s.wstat = false) (hd : s.ds = none) (ha : s.visible a) :
    exec (.tret a) s = .next (returnFromException s (byteAddress (s.x a))) :=
  outsideSlot_ok hw hd (by rw [readReg_visible ha]; rfl)

/-- Settles O42. -/
theorem trapReturn : Obligations.TrapReturn := by
  intro s a hw hd ha
  refine ⟨_, exec_tret_ok hw hd ha, rfl, ?_, rfl, ⟨rfl, rfl, rfl, rfl⟩, rfl, fun _ => rfl⟩
  rw [← byteAddress_eq_ofNat]
  exact ⟨rfl, rfl, rfl, rfl, rfl⟩

/-- Settles O43: TRAP writes one register, the %o7 of the window below, which is no visible register of this one. -/
theorem trapThenReturn : Obligations.TrapThenReturn := by
  intro s t imm6 hpc h
  have htake : takeException s imm6 (s.pc + 2) true = .ok t := exec_effect h
  obtain ⟨_, ⟨hc, rfl⟩, hr, -, -⟩ := takeException_eq_ok.1 htake
  have hcwp : s.cwp ≠ 0 := hc rfl
  have he := takeException_entered htake
  obtain ⟨hlength, hregs⟩ := he.regs
  have hvisible : t.visible 15 := by
    rw [State.visible, he.cwp, hlength]; exact hr
  have hreturn : byteAddress (t.x 15) = s.pc + 2 := by
    rw [he.link]; exact byteAddress_codeAddress _ (add_even hpc rfl)
  refine ⟨_, exec_tret_ok he.ends.wstat he.ends.ds hvisible, he.istatus, hreturn, fun r => ?_, he.memory, he.wvalid,
    rfl, rfl⟩
  have hback : (returnFromException t (byteAddress (t.x 15))).cwp = s.cwp := congrArg statusCWP he.istatus
  change t.regs.getD (phys (returnFromException t (byteAddress (t.x 15))).cwp r) 0 = s.regs.getD (phys s.cwp r) 0
  rw [hback, List.getD_eq_getElem?_getD, List.getD_eq_getElem?_getD, hregs _ (phys_o7_below hcwp r)]

/-! ### Control registers (47_system.md R295, R296) -/

theorem rdctl_completes {s : State} {a : Reg} {v : Word} (hw : s.wstat = false) (ha : s.visible a)
    (hv : readControl s s.k = .ok (v, s)) : Completes (exec (.rdctl a) s) fun t => ResultIs s t a v s.flags :=
  ⟨_, exec_rdctl_ok hw hv ha, afterWrite_resultIs _ ha⟩

/-- Settles O44. -/
theorem readControlResult : Obligations.ReadControlResult := fun _ _ hw ha =>
  ⟨fun hk => rdctl_completes hw ha (by rw [hk]; rfl), fun hk => rdctl_completes hw ha (by rw [hk]; rfl),
    fun hk => rdctl_completes hw ha (by rw [hk]; rfl)⟩

theorem toNat_wvalid_mask (x : Word) : (x.extractLsb' 0 16 &&& 0x03FF : Half).toNat = x.toNat % 2 ^ 10 := by
  have hmask : (x.extractLsb' 0 16 &&& 0x03FF : Half).toNat = (x.extractLsb' 0 16).toNat % 2 ^ 10 :=
    (BitVec.toNat_and _ 0x03FF).trans (Nat.and_two_pow_sub_one_eq_mod _ 10)
  rw [hmask, toNat_extractLsb'_div]
  omega

/-- What a write to STATUS, ISTATUS and WVALID does (47_system.md R296). -/
theorem writeControl_status_ok (s : State) {k : BitVec 11} (v : Half) (hk : k = 0) :
    writeControl s k v = .ok (s.setStatus v) := by subst hk; rfl

theorem writeControl_istatus_ok (s : State) {k : BitVec 11} (v : Half) (hk : k = 1) :
    writeControl s k v = .ok { s with istatus := v } := by subst hk; rfl

theorem writeControl_wvalid_ok (s : State) {k : BitVec 11} (v : Half) (hk : k = 2) :
    writeControl s k v = .ok (if s.cfg.wvalidWritable then { s with wvalid := v &&& 0x03FF } else s) := by
  subst hk; rfl

/-- Settles O45. -/
theorem writeControlResult : Obligations.WriteControlResult := by
  intro s a hw ha rest
  have hlow : (s.x a).extractLsb' 0 16 = (s.x a).setWidth 16 := BitVec.eq_of_toNat_eq (by simp)
  refine ⟨fun hk => ?status, fun hk => ?istatus, fun hk => ?wvalid⟩
  case status =>
    exact ⟨_, exec_wrctl_ok hw ha (writeControl_status_ok s _ hk),
      ⟨rfl, rfl, rfl, rfl, rfl, rfl, rfl, rfl, fun _ => rfl⟩, hlow, rfl, rfl, decide_eq_true hk⟩
  case istatus =>
    exact ⟨_, exec_wrctl_ok hw ha (writeControl_istatus_ok s _ hk),
      ⟨rfl, rfl, rfl, rfl, rfl, rfl, rfl, rfl, fun _ => rfl⟩, hlow, rfl, rfl, decide_eq_false (by rw [hk]; decide)⟩
  case wvalid =>
    have hnop : decide (s.k = 0) = false := decide_eq_false (by rw [hk]; decide)
    refine ⟨_, exec_wrctl_ok hw ha (writeControl_wvalid_ok s _ hk), ?_⟩
    cases s.cfg.wvalidWritable with
    | true => exact ⟨⟨rfl, rfl, rfl, rfl, rfl, rfl, rfl, rfl, fun _ => rfl⟩, rfl, rfl, hnop, toNat_wvalid_mask _⟩
    | false => exact ⟨⟨rfl, rfl, rfl, rfl, rfl, rfl, rfl, rfl, fun _ => rfl⟩, rfl, rfl, hnop, rfl⟩

end Sys2Proof.Machine
end

/-! ## What an instruction needs in order to complete, where it stops, and reset -/

section
namespace Sys2Proof.Machine

/-! ### What an instruction that completes has needed -/

/-- It did not run after a WRCTL to STATUS, NOP apart, and the registers it names lie inside the file. -/
structure Needs (s : State) (i : Instr) : Prop where
  noWstat : s.wstat = false ∨ i = .mov 0 0
  visible : ∀ r ∈ operandRegs s.pfxd i, s.visible r

theorem Needs.of_none {s : State} {i : Instr} (hw : s.wstat = false) (h : operandRegs s.pfxd i = []) : Needs s i :=
  ⟨.inl hw, by simp [h]⟩

theorem Needs.of_one {s : State} {i : Instr} {a : Reg} (hw : s.wstat = false) (h : operandRegs s.pfxd i = [a])
    (ha : s.visible a) : Needs s i :=
  ⟨.inl hw, by rw [h]; exact List.forall_mem_singleton.2 ha⟩

theorem Needs.of_two {s : State} {i : Instr} {a b : Reg} (hw : s.wstat = false) (h : operandRegs s.pfxd i = [a, b])
    (ha : s.visible a) (hb : s.visible b) : Needs s i :=
  ⟨.inl hw, by rw [h]; exact List.forall_mem_cons.2 ⟨ha, List.forall_mem_singleton.2 hb⟩⟩

theorem readReg_bind_visible {α : Type} {s : State} {a : Reg} {f : Word → Except Refusal α} {v : α}
    (h : (readReg s a >>= f) = .ok v) : s.visible a := by
  obtain ⟨x, hx, -⟩ := except_bind_ok.1 h
  exact (readReg_eq_ok.1 hx).1

theorem exec_needs {i : Instr} {s t : State} (h : exec i s = .next t) : Needs s i := by
  cases i with
  | add a b =>
    obtain ⟨hw, ha, y, hy, -⟩ := addTo_eq_next.1 h
    exact .of_two hw rfl ha (readReg_eq_ok.1 hy).1
  | addi a n => obtain ⟨hw, ha, -⟩ := addTo_eq_next.1 h; exact .of_one hw rfl ha
  | sub a b =>
    obtain ⟨hw, ha, y, hy, -⟩ := subtractFrom_eq_next.1 h
    exact .of_two hw rfl ha (readReg_eq_ok.1 hy).1
  | subi a n => obtain ⟨hw, ha, -⟩ := subtractFrom_eq_next.1 h; exact .of_one hw rfl ha
  | cmp a b =>
    obtain ⟨hw, ha, y, hy, -⟩ := compareWith_eq_next.1 h
    exact .of_two hw rfl ha (readReg_eq_ok.1 hy).1
  | cmpi a n => obtain ⟨hw, ha, -⟩ := compareWith_eq_next.1 h; exact .of_one hw rfl ha
  | lsl | lsr | asr | ext8d | ext16d =>
    obtain ⟨hw, ha, hb, -⟩ := combineRegs_eq_next.1 h; exact .of_two hw rfl ha hb
  | lsli | lsri | asri | ext8s | ext16s | movhi | not | neg | abs | sext8 | sext16 | swap =>
    obtain ⟨hw, ha, -⟩ := updateReg_eq_next.1 h; exact .of_one hw rfl ha
  | fill8 | fill16 => obtain ⟨hw, h0, ha, -⟩ := accumulate_eq_next.1 h; exact .of_two hw rfl ha h0
  | mstep a | mul a =>
    obtain ⟨hconf, -⟩ := exec_effect h
    obtain ⟨hw, h0, ha, -⟩ := accumulate_eq_next.1 ((if_pos hconf).symm.trans h)
    exact .of_two hw rfl ha h0
  | and a b | andn a b | or a b | xor a b =>
    obtain ⟨hw, ha, y, hy, -⟩ := logical_eq_next.1 h
    obtain ⟨hp, -⟩ | ⟨hp, hb, -⟩ := logicOperand_eq_ok.1 hy
    · exact .of_one hw (by rw [hp]; rfl) ha
    · exact .of_two hw (by rw [hp]; rfl) ha hb
  | mov a b =>
    obtain ⟨_, hreq, h⟩ := except_bind_ok.1 (answer_eq_next.1 h)
    have hb := readReg_bind_visible h
    obtain ⟨y, -, h⟩ := except_bind_ok.1 h
    obtain ⟨u, hu, -⟩ := except_bind_ok.1 h
    have ha := (writeReg_eq_ok.1 hu).1
    refine ⟨?_, List.forall_mem_cons.2 ⟨ha, List.forall_mem_singleton.2 hb⟩⟩
    unfold requireNopAfterWstat at hreq
    split at hreq
    case isTrue hnop =>
      obtain ⟨rfl, rfl⟩ := of_decide_eq_true hnop
      exact .inr rfl
    case isFalse => exact .inl (requireNoWstat_eq_ok.1 hreq)
  | movi a n | bgen a n =>
    obtain ⟨hw, u, hu, -⟩ := ordinary_eq_next.1 h
    exact .of_one hw rfl (writeReg_eq_ok.1 hu).1
  | rlc a | rrc a =>
    obtain ⟨hw, u, hu, -⟩ := ordinary_eq_next.1 h
    exact .of_one hw rfl (readReg_bind_visible hu)
  | ld => obtain ⟨hw, hb, ha, -⟩ := loadFrom_eq_next.1 h; exact .of_two hw rfl ha hb
  | ldp | lds => obtain ⟨hw, hb, ha, -⟩ := loadFrom_eq_next.1 h; exact .of_two hw rfl hb ha
  | st => obtain ⟨hw, hb, ha, -⟩ := storeTo_eq_next.1 h; exact .of_two hw rfl ha hb
  | stp | sts => obtain ⟨hw, hb, ha, -⟩ := storeTo_eq_next.1 h; exact .of_two hw rfl hb ha
  | st8d | st8s | sts8s => obtain ⟨hw, hb, h0, -⟩ := storeByteLane_eq_next.1 h; exact .of_two hw rfl hb h0
  | st16d | st16s | sts16s => obtain ⟨hw, hb, h0, -⟩ := storeHalfLane_eq_next.1 h; exact .of_two hw rfl hb h0
  | skp0 a n | skp1 a n | skprz a | skprnz a =>
    obtain ⟨hw, -, c, hc, -⟩ := skipIf_eq_next.1 h
    exact .of_one hw rfl (readReg_bind_visible hc)
  | skps n => exact .of_none (skipIf_eq_next.1 h).1 rfl
  | save n => exact .of_none (execSave_eq_next.1 h).1 rfl
  | restore => exact .of_none (execRestore_eq_next.1 h).1 rfl
  | br | pfx | trap => exact .of_none (outsideSlot_eq_next.1 h).1 rfl
  | tret a | jmp a =>
    obtain ⟨hw, -, h⟩ := outsideSlot_eq_next.1 h
    exact .of_one hw rfl (readReg_bind_visible h)
  | call a =>
    obtain ⟨hw, -, h⟩ := outsideSlot_eq_next.1 h
    have ha := readReg_bind_visible h
    obtain ⟨x, -, h⟩ := except_bind_ok.1 h
    obtain ⟨u, hu, -⟩ := except_bind_ok.1 h
    exact .of_two hw rfl ha (link_eq_ok.1 hu).1
  | bsr n =>
    obtain ⟨hw, -, h⟩ := outsideSlot_eq_next.1 h
    obtain ⟨u, hu, -⟩ := except_bind_ok.1 h
    exact .of_one hw rfl (link_eq_ok.1 hu).1
  | wrctl a =>
    obtain ⟨_, hreq, h⟩ := except_bind_ok.1 (answer_eq_next.1 h)
    exact .of_one (requireNoWstat_eq_ok.1 hreq) rfl (readReg_bind_visible h)
  | rdctl a =>
    obtain ⟨hw, u, hu, -⟩ := ordinary_eq_next.1 h
    obtain ⟨⟨v, w⟩, hv, hu⟩ := except_bind_ok.1 hu
    have ha := (writeReg_eq_ok.1 hu).1
    obtain rfl | rfl := readControl_eq_ok hv <;> exact .of_one hw rfl ha
  | usr0 | usr1 | usr2 | usr3 | usr4 => cases h

/-- Settles O47: of all instructions MOV alone does not require that no WRCTL to STATUS has just run. -/
theorem nopAfterStatusWrite : Obligations.NopAfterStatusWrite := by
  intro s hw
  refine ⟨fun i t h => ?_, fun h0 => ⟨_, exec_mov_ok (.inl ⟨rfl, rfl⟩) h0 h0, afterWrite_resultIs _ h0⟩⟩
  obtain hno | rfl := (exec_needs h).noWstat
  · rw [hw] at hno; cases hno
  · rfl

/-- An exception entered from a window exception has written the %o7 of its handler's window. -/
theorem windowException_uses {m t : State} {e : ExcNum} {dec atLimit : Bool}
    (h : windowException m atLimit e dec = .ok t) (hl : atLimit = true) (hie : m.ie = true) (hp : e < m.ipri) :
    phys (if dec then m.cwp - 1 else m.cwp) 15 < m.regs.length := by
  rw [windowException_taken ⟨hl, hie, hp⟩] at h
  obtain ⟨_, ⟨-, rfl⟩, hr, -⟩ := takeException_eq_ok.1 h
  exact hr

/-- Settles O50. -/
theorem insideRegisterFile : Obligations.InsideRegisterFile := by
  intro i s t h n hn
  cases i with
  | save imm8 =>
    obtain ⟨-, h30, h14, hx⟩ := exec_effect h
    rw [setCwp_visible] at h30 h14
    simp only [usedRegisters, List.mem_append, List.mem_cons, List.not_mem_nil, or_false] at hn
    obtain (rfl | rfl) | hn := hn
    · exact h30
    · exact h14
    · split at hn
      case isTrue hproc =>
        obtain ⟨hl, hie, hp⟩ := hproc
        obtain rfl := List.mem_singleton.1 hn
        have hu := windowException_uses (m := saved s imm8) hx (decide_eq_true hl) ((saved_ie s imm8).trans hie)
          ((saved_ipri s imm8).symm ▸ hp)
        rwa [if_neg (by simp), saved_cwp, (saved_keepsMachine s imm8).regs] at hu
      case isFalse => cases hn
  | restore =>
    obtain ⟨-, hx⟩ := exec_effect h
    simp only [usedRegisters] at hn
    split at hn
    case isTrue hproc =>
      obtain ⟨hl, hie, hp⟩ := hproc
      obtain rfl := List.mem_singleton.1 hn
      have hu := windowException_uses (m := restored s) hx (decide_eq_true hl) ((restored_ie s).trans hie)
        ((restored_ipri s).symm ▸ hp)
      rwa [restored_back] at hu
    case isFalse => cases hn
  | trap imm6 =>
    obtain ⟨_, ⟨-, rfl⟩, hr, -⟩ := takeException_eq_ok.1 (exec_effect h)
    obtain rfl := List.mem_singleton.1 hn
    exact hr
  | _ =>
    obtain ⟨r, hr, rfl⟩ := List.mem_map.1 hn
    exact (exec_needs h).visible r hr

/-! ### Forms without an outcome -/

theorem condition_undefined {imm4 : BitVec 4} (f : Flags) (h : 14 ≤ imm4.toNat) :
    condition imm4 f = .error .undefinedCondition := by
  unfold condition
  split
  case h_15 => rfl
  all_goals omega

/-- The control registers that are none (10_state.md R45). -/
theorem readControl_reserved {s : State} {k : BitVec 11} (h : (3 ≤ k.toNat ∧ k.toNat ≤ 7) ∨ 10 ≤ k.toNat) :
    readControl s k = .error .reservedControlRegister := by
  unfold readControl
  split
  case h_6 => rfl
  all_goals omega

theorem writeControl_reserved {s : State} {k : BitVec 11} (v : Half)
    (h : (3 ≤ k.toNat ∧ k.toNat ≤ 7) ∨ 10 ≤ k.toNat) :
    writeControl s k v = .error .reservedControlRegister := by
  unfold writeControl
  split
  case h_6 => rfl
  all_goals omega

/-- Settles O48. -/
theorem reservedOpcodesStop : Obligations.ReservedOpcodesStop := fun _ _ _ => ⟨rfl, rfl, rfl, rfl, rfl⟩

/-- Settles O49. -/
theorem undefinedFormsStop : Obligations.UndefinedFormsStop := by
  intro s a hw ha
  have hgo := requireNoWstat_eq_ok (u := ()).2 hw
  refine ⟨?skps, ?control, ?pfx, ?save, ?trap, ?restore, ?mul, ?mstep⟩
  case skps =>
    intro imm4 hd h
    exact outsideSlot_stops hw hd (by rw [condition_undefined _ h]; rfl)
  case control =>
    intro hk
    refine ⟨ordinary_stops hw (by rw [readControl_reserved hk]; rfl), ?_⟩
    change execWrctl a s = _
    rw [execWrctl, hgo, except_ok_bind, readReg_visible ha, except_ok_bind, writeControl_reserved _ hk]; rfl
  case pfx =>
    intro imm11 hd hp
    have hreq : requireNoPfx s = .error .pfxAfterPfx := if_pos hp
    exact outsideSlot_stops hw hd (by rw [hreq]; rfl)
  case save =>
    intro imm8 hc
    have hdown : cwpDown s = .error .cwpBelowZero := if_pos hc
    change execSave imm8 s = _
    rw [execSave, hgo, except_ok_bind, hdown]; rfl
  case trap => exact fun imm6 hd hc => outsideSlot_stops hw hd (takeException_cwpBelowZero hc)
  case restore =>
    intro hc
    have hup : cwpUp s = .error .cwpAboveMax := if_pos hc
    change execRestore s = _
    rw [execRestore, hgo, except_ok_bind, hup]; rfl
  case mul => exact fun hno => if_neg (by simp [hno])
  case mstep => exact fun hno => if_neg (by simp [hno])

/-! ### Reset (70_reset_and_hazards.md R360 to R368) -/

theorem mkWvalid_lt (hi lo : BitVec 5) : (mkWvalid hi lo).toNat < 2 ^ 10 := by
  rw [mkWvalid, toNat_append_add, toNat_append_add]; simp; omega

theorem resetWith_afterReset (c : Config) (image : Memory) : AfterReset c image (State.resetWith c image) where
  cfg := rfl
  regs := List.length_replicate
  pc := rfl
  ie := State.resetWith_ie c image
  ipri := congrArg BitVec.toNat (State.resetWith_ipri c image)
  cwp := (congrArg BitVec.toNat (State.resetWith_cwp c image)).trans (RegfileSize.hiReset_toNat c.regfile)
  istatus := rfl
  loLimit := congrArg BitVec.toNat (State.resetWith_loLimit c image)
  hiLimit := (congrArg BitVec.toNat (State.resetWith_hiLimit c image)).trans (RegfileSize.hiReset_toNat c.regfile)
  reserved := mkWvalid_lt _ _
  k := rfl
  pfxd := rfl
  ds := rfl
  wstat := rfl
  mem := rfl

theorem AfterReset.inv {c : Config} {image : Memory} {s : State} (h : AfterReset c image s) (hc : c.legal)
    (hm : image.wf) : s.Inv where
  cfg := h.cfg ▸ hc
  regs := by rw [h.regs, h.cfg]
  pc := h.pc ▸ hc.2.1
  ds := by simp [h.ds]
  k _ := h.k
  afterPfx := by simp [h.pfxd]
  afterWstat _ := h.ds
  wvalid := h.reserved
  mem := h.mem ▸ hm

/-- A reset in mid-run differs from the first one in the coming inputs and the free counter alone. -/
theorem applyReset_afterReset (s : State) : AfterReset s.cfg s.mem s.applyReset :=
  { resetWith_afterReset s.cfg s.mem with }

theorem config_default_legal : Config.default.legal := by decide

/-- Settles O58. -/
theorem resetState : Obligations.ResetState := by
  have hdefault : AfterReset Config.default [] State.reset := resetWith_afterReset _ _
  refine ⟨fun c image => ⟨resetWith_afterReset c image, (resetWith_afterReset c image).inv⟩,
    fun s => ⟨applyReset_afterReset s, rfl, rfl, fun hs => (applyReset_afterReset s).inv hs.cfg hs.mem⟩,
    hdefault, hdefault.inv config_default_legal ?_⟩
  exact ⟨List.Pairwise.nil, by simp⟩

end Sys2Proof.Machine
end
